-- ==== Sys2Proof/Word.lean ====
section
/-! DEFINITION. The byte and the byte string (00_scope.md R6 `BYTE_W`, R7). MBC has no machine word and no
register file (10_state.md R21): every buffer element is one byte, and offsets, lengths and counters are
unbounded natural numbers. -/

namespace Sys2Proof

/-- One byte, an unsigned integer `0..255` (R7). -/
abbrev Byte := BitVec 8

/-- A byte string, byte 0 first (R7, R60). -/
abbrev Bytes := List Byte

end Sys2Proof
end

