-- ==== Sys2Proof/Syntax.lean ====
section
/-! DEFINITION. The requests of MBC: one constructor of `Instr` per row of spec/opcode_table.json.
The 51 operations are those of 30_encoding.md R130; the 23 format, table and bit-pattern rows (R91 to R113)
are requests that apply the format's layout rule (log 19). Operands are byte windows, small scalars and
references to objects (10_state.md R21, log 16). -/

namespace Sys2Proof

/-- The kind of a session (47_keys_fcb.md R400). -/
inductive SessionKind where
  | wired
  | wireless
  deriving DecidableEq, Repr

/-- The byte order a secondary address is built in (41_secondary_address.md R172). -/
inductive SaOrder where
  | lh
  | ll
  deriving DecidableEq, Repr

/-- A reference to a SecondaryAddress object: one that SA.LH, SA.LL or SA.BUILD made, the long-header address
of a decoded VDS, the link-layer address of a wireless message, or an entry of the scanner's `found` (log 16). -/
inductive SaRef where
  | obj (n : Nat)
  | ofVds (v : Nat)
  | ofMsg (m : Nat)
  | found (k : Nat)
  deriving DecidableEq, Repr

/-- A reference to a DataRecord: one that DR.DEC made, or record `k` of a decoded VDS (log 16). -/
inductive RecRef where
  | obj (n : Nat)
  | ofVds (v k : Nat)
  deriving DecidableEq, Repr

/-- A reference to a Bcd object: one that BCD.DEC made, the device id of an address, or the value of a record
(log 16). -/
inductive BcdRef where
  | obj (n : Nat)
  | deviceId (a : SaRef)
  | dataValue (r : RecRef)
  deriving DecidableEq, Repr

/-- The operand of KEY.GET: "a SecondaryAddress `sa` (or its 8 raw bytes)" (47_keys_fcb.md R404). -/
inductive AddrKey where
  | raw (r : Bytes)
  | sa (a : SaRef)
  deriving DecidableEq, Repr

/-- The hint of a VIFTAB entry: DATE for time-point quantities, NUMERIC otherwise (42_data_record.md R195). -/
inductive Hint where
  | numeric
  | date
  deriving DecidableEq, Repr

/-- A request of the CMD port, one constructor per row of spec/opcode_table.json. `t` is the caller's timeout,
which is handed to the transport and never interpreted (R540, log 28). -/
inductive Instr where
  -- session, keys, frame count bits (47_keys_fcb.md)
  | sesOpen (kind : SessionKind) (port : Nat)
  | keyAdd (sa : SaRef) (key : Bytes)
  | keyDel (sa : SaRef)
  | keyGet (k : AddrKey)
  | fcbGet (a : Byte)
  -- BCD unit (40_bcd.md)
  | bcdDec (b : Bytes)
  | bcdStr (x : BcdRef)
  | bcdInt (x : BcdRef)
  | bcdLong (x : BcdRef)
  | bcdEnc (v : Int) (n : Nat)
  -- SA unit (41_secondary_address.md)
  | manDec (m0 m1 : Byte)
  | manEnc (str : List Char)
  | saLh (buf : Bytes) (p : Nat)
  | saLl (buf : Bytes) (p : Nat)
  | saRaw (x : SaRef)
  | saEq (x y : SaRef)
  | saCmp (x y : SaRef)
  | saBuild (man : List Char) (deviceId : Int) (version deviceType : Byte) (order : SaOrder)
  -- DR unit (42_data_record.md)
  | drDec (buf : Bytes) (p remaining : Nat)
  | drScale (r : RecRef)
  -- AES unit (43_aes_cbc.md)
  | aesDecrypt (key iv buf : Bytes) (p avail blockCount : Nat)
  | aesEncrypt (key iv m : Bytes)
  -- VDS unit (44_vds.md)
  | vdsNew (buf : Bytes) (off len : Nat) (llAddr : Option SaRef) (keys : Bool)
  | vdsDec (v : Nat)
  -- WFC unit (45_wired_frame.md)
  | encShort (c a : Byte)
  | encLong (c a ci : Byte) (data : Bytes)
  | chkSum (bs : Bytes)
  | chkVerify (f : Bytes)
  | decFrame (buf : Bytes)
  | decShort (buf : Bytes)
  | txFrame (f : Bytes)
  | rxFrame (t : Nat)
  | lnkRead (a : Byte) (t : Nat)
  | lnkWrite (a : Byte) (payload : Bytes) (t : Nat)
  | lnkReset (a : Byte) (t : Nat)
  | lnkSelect (sa : SaRef) (t : Nat)
  | lnkDeselect (sa : SaRef) (t : Nat)
  | lnkSelrd (a : Byte) (payload : Bytes) (t : Nat)
  | lnkRstrd (a : Byte) (t : Nat)
  | lnkScansel (wild : Bytes) (t : Nat)
  -- WLC unit (46_wireless_frame.md)
  | wlNew (buf rssi : Bytes)
  | wlDec (m : Nat)
  | wlDeep (m : Nat)
  -- SCAN unit (48_scanner.md)
  | scanInit (mask : List Char)
  | scanStep (t : Nat)
  | scanAdv
  | scanNarrow
  | scanRun (mask : List Char) (t : Nat)
  | scanAbort
  | scanPack (value : Bytes)
  | maskFlip (m : List Char)
  -- formats, tables and bit patterns (30_encoding.md R91 to R113; log 19)
  | fAck
  | fShort (buf : Bytes)
  | fLong (buf : Bytes)
  | fWl (buf : Bytes)
  | fSaLh (buf : Bytes)
  | fSaLl (buf : Bytes)
  | fMan (m0 m1 : Byte)
  | fSh (buf : Bytes)
  | fLh (buf : Bytes)
  | fDib (buf : Bytes)
  | fVib (buf : Bytes)
  | fData (code : Byte) (hint : Hint) (buf : Bytes)
  | lvar (buf : Bytes)
  | special (b : Byte)
  | fBcd (b : Bytes)
  | fIv (raw : Bytes) (accessNumber : Byte)
  | fWild (value : Bytes)
  | cField (c : Byte)
  | rspUdTest (c : Byte)
  | reqUd2 (f : Bool)
  | aField (a : Byte)
  | ciField (ci : Byte)
  | leadByte (b : Byte)
  deriving DecidableEq, Repr

end Sys2Proof
end

