-- ==== Sys2Proof/WellFormed.lean ====
section
/-! DEFINITION. Which requests are well formed: the operands whose size the spec fixes have that size. Sizes for
which the spec names a refusal (a key, an IV, a mask, a payload) are not checked here: the operation refuses. -/

namespace Sys2Proof

/-- The sizes the operand columns of spec/opcode_table.json fix: a raw address has `SA_LEN = 8` bytes, a wildcard
8 bytes (R113), `value` 16 entries (R35), the data field code 4 bits (R106), a BCD encode asks for `n >= 1` bytes
(40_bcd.md R145). -/
def Instr.wf : Instr → Bool
  | .keyGet (.raw r) => r.length == 8
  | .bcdEnc _ n => decide (1 ≤ n)
  | .lnkScansel wild _ => wild.length == 8
  | .scanPack value => value.length == 16
  | .fData code _ _ => decide (code.toNat < 16)
  | .fIv raw _ => raw.length == 8
  | .fWild value => value.length == 16
  | _ => true

end Sys2Proof
end

