-- ==== Sys2Proof/Decode.lean ====
section
/-! DEFINITION. Decoding and encoding of requests. The codes of the 51 operations are those of 30_encoding.md R130
(92 D2); the spec gives operands no byte encoding and the format rows no code, so both are the model's (log 3):
a request is its code byte followed by its operands, each self-delimiting. Decoding is total on any bytes and
rejects by name; bytes after the operands are left over. -/

namespace Sys2Proof

/-- Why the bytes of a request are no request (log 27). -/
inductive DecodeError where
  /-- No byte at all. -/
  | empty
  /-- The code byte is none of R130 and none of the format codes of log 3. -/
  | unknownCode (code : Byte)
  /-- The request ends inside an operand. -/
  | truncated
  /-- A tag byte of an operand has no meaning. -/
  | badTag (tag : Byte)
  /-- A number that is no character. -/
  | badCharacter (n : Nat)
  /-- A data field code of more than 4 bits. -/
  | badNibble (b : Byte)
  deriving DecidableEq, Repr

/-! ## Operand decoders -/

/-- One byte. -/
def getByte : Bytes → Except DecodeError (Byte × Bytes)
  | [] => .error .truncated
  | b :: r => .ok (b, r)

/-- A natural number in groups of 7 bits, least significant group first; bit 7 says that a group follows. -/
def getNat : Bytes → Except DecodeError (Nat × Bytes)
  | [] => .error .truncated
  | b :: r =>
    if b.toNat < 128 then .ok (b.toNat, r)
    else do
      let (n, r) ← getNat r
      .ok (b.toNat - 128 + 128 * n, r)

/-- A natural number that is at least 1, stored less one. -/
def getPos (r : Bytes) : Except DecodeError (Nat × Bytes) := do
  let (n, r) ← getNat r
  .ok (n + 1, r)

/-- An integer: `2 v` for `v >= 0`, `-2 v - 1` for `v < 0`. -/
def getInt (r : Bytes) : Except DecodeError (Int × Bytes) := do
  let (n, r) ← getNat r
  .ok (if n % 2 = 0 then (n / 2 : Nat) else -((n / 2 : Nat) : Int) - 1, r)

/-- Exactly `n` bytes. -/
def getFixed (n : Nat) (r : Bytes) : Except DecodeError (Bytes × Bytes) :=
  if r.length < n then .error .truncated else .ok (r.take n, r.drop n)

/-- A byte string: its length, then its bytes. -/
def getBytes (r : Bytes) : Except DecodeError (Bytes × Bytes) := do
  let (n, r) ← getNat r
  getFixed n r

/-- One character, by its code. -/
def getChar (r : Bytes) : Except DecodeError (Char × Bytes) := do
  let (n, r) ← getNat r
  if n.isValidChar then .ok (Char.ofNat n, r) else .error (.badCharacter n)

/-- `n` characters. -/
def getCharsN : Nat → Bytes → Except DecodeError (List Char × Bytes)
  | 0, r => .ok ([], r)
  | n + 1, r => do
    let (c, r) ← getChar r
    let (cs, r) ← getCharsN n r
    .ok (c :: cs, r)

/-- A character string: its length, then its characters. -/
def getChars (r : Bytes) : Except DecodeError (List Char × Bytes) := do
  let (n, r) ← getNat r
  getCharsN n r

/-- A truth value, 0 or 1. -/
def getBool (r : Bytes) : Except DecodeError (Bool × Bytes) := do
  let (b, r) ← getByte r
  if b = 0#8 then .ok (false, r) else if b = 1#8 then .ok (true, r) else .error (.badTag b)

/-- A session kind. -/
def getKind (r : Bytes) : Except DecodeError (SessionKind × Bytes) := do
  let (b, r) ← getBool r
  .ok (if b then .wireless else .wired, r)

/-- An address order. -/
def getOrder (r : Bytes) : Except DecodeError (SaOrder × Bytes) := do
  let (b, r) ← getBool r
  .ok (if b then .ll else .lh, r)

/-- A VIFTAB hint. -/
def getHint (r : Bytes) : Except DecodeError (Hint × Bytes) := do
  let (b, r) ← getBool r
  .ok (if b then .date else .numeric, r)

/-- A 4-bit code in a byte. -/
def getNibble (r : Bytes) : Except DecodeError (Byte × Bytes) := do
  let (b, r) ← getByte r
  if b.toNat < 16 then .ok (b, r) else .error (.badNibble b)

/-- A reference to an address. -/
def getSaRef (r : Bytes) : Except DecodeError (SaRef × Bytes) := do
  let (b, r) ← getByte r
  let (n, r) ← getNat r
  if b = 0#8 then .ok (.obj n, r)
  else if b = 1#8 then .ok (.ofVds n, r)
  else if b = 2#8 then .ok (.ofMsg n, r)
  else if b = 3#8 then .ok (.found n, r)
  else .error (.badTag b)

/-- An optional reference to an address. -/
def getOptSaRef (r : Bytes) : Except DecodeError (Option SaRef × Bytes) := do
  let (b, r) ← getBool r
  if b then do
    let (a, r) ← getSaRef r
    .ok (some a, r)
  else .ok (none, r)

/-- A reference to a record. -/
def getRecRef (r : Bytes) : Except DecodeError (RecRef × Bytes) := do
  let (b, r) ← getBool r
  let (n, r) ← getNat r
  if b then do
    let (k, r) ← getNat r
    .ok (.ofVds n k, r)
  else .ok (.obj n, r)

/-- A reference to a Bcd object. -/
def getBcdRef (r : Bytes) : Except DecodeError (BcdRef × Bytes) := do
  let (b, r) ← getByte r
  if b = 0#8 then do
    let (n, r) ← getNat r
    .ok (.obj n, r)
  else if b = 1#8 then do
    let (a, r) ← getSaRef r
    .ok (.deviceId a, r)
  else if b = 2#8 then do
    let (x, r) ← getRecRef r
    .ok (.dataValue x, r)
  else .error (.badTag b)

/-- The operand of KEY.GET: 8 raw bytes or a reference. -/
def getAddrKey (r : Bytes) : Except DecodeError (AddrKey × Bytes) := do
  let (b, r) ← getBool r
  if b then do
    let (a, r) ← getSaRef r
    .ok (.sa a, r)
  else do
    let (x, r) ← getFixed 8 r
    .ok (.raw x, r)

/-! ## Request decoders, by family -/

/-- The operands of the session requests, by code. -/
def decodeSession (code : Byte) (r : Bytes) : Except DecodeError (Instr × Bytes) :=
  match code.toNat with
  | 0x00 => do
      let (kind, r) ← getKind r
      let (port, r) ← getNat r
      .ok (.sesOpen kind port, r)
  | 0x01 => do
      let (sa, r) ← getSaRef r
      let (key, r) ← getBytes r
      .ok (.keyAdd sa key, r)
  | 0x02 => do
      let (sa, r) ← getSaRef r
      .ok (.keyDel sa, r)
  | 0x03 => do
      let (k, r) ← getAddrKey r
      .ok (.keyGet k, r)
  | 0x04 => do
      let (a, r) ← getByte r
      .ok (.fcbGet a, r)
  | _ => .error (.unknownCode code)

/-- The operands of the codec requests, by code. -/
def decodeCodec (code : Byte) (r : Bytes) : Except DecodeError (Instr × Bytes) :=
  match code.toNat with
  | 0x10 => do
      let (b, r) ← getBytes r
      .ok (.bcdDec b, r)
  | 0x11 => do
      let (x, r) ← getBcdRef r
      .ok (.bcdStr x, r)
  | 0x12 => do
      let (x, r) ← getBcdRef r
      .ok (.bcdInt x, r)
  | 0x13 => do
      let (x, r) ← getBcdRef r
      .ok (.bcdLong x, r)
  | 0x14 => do
      let (v, r) ← getInt r
      let (n, r) ← getPos r
      .ok (.bcdEnc v n, r)
  | 0x18 => do
      let (m0, r) ← getByte r
      let (m1, r) ← getByte r
      .ok (.manDec m0 m1, r)
  | 0x19 => do
      let (str, r) ← getChars r
      .ok (.manEnc str, r)
  | 0x1A => do
      let (buf, r) ← getBytes r
      let (p, r) ← getNat r
      .ok (.saLh buf p, r)
  | 0x1B => do
      let (buf, r) ← getBytes r
      let (p, r) ← getNat r
      .ok (.saLl buf p, r)
  | 0x1C => do
      let (x, r) ← getSaRef r
      .ok (.saRaw x, r)
  | 0x1D => do
      let (x, r) ← getSaRef r
      let (y, r) ← getSaRef r
      .ok (.saEq x y, r)
  | 0x1E => do
      let (x, r) ← getSaRef r
      let (y, r) ← getSaRef r
      .ok (.saCmp x y, r)
  | 0x1F => do
      let (man, r) ← getChars r
      let (deviceId, r) ← getInt r
      let (version, r) ← getByte r
      let (deviceType, r) ← getByte r
      let (order, r) ← getOrder r
      .ok (.saBuild man deviceId version deviceType order, r)
  | _ => .error (.unknownCode code)

/-- The operands of the data requests, by code. -/
def decodeData (code : Byte) (r : Bytes) : Except DecodeError (Instr × Bytes) :=
  match code.toNat with
  | 0x20 => do
      let (buf, r) ← getBytes r
      let (p, r) ← getNat r
      let (remaining, r) ← getNat r
      .ok (.drDec buf p remaining, r)
  | 0x21 => do
      let (x, r) ← getRecRef r
      .ok (.drScale x, r)
  | 0x28 => do
      let (key, r) ← getBytes r
      let (iv, r) ← getBytes r
      let (buf, r) ← getBytes r
      let (p, r) ← getNat r
      let (avail, r) ← getNat r
      let (blockCount, r) ← getNat r
      .ok (.aesDecrypt key iv buf p avail blockCount, r)
  | 0x29 => do
      let (key, r) ← getBytes r
      let (iv, r) ← getBytes r
      let (m, r) ← getBytes r
      .ok (.aesEncrypt key iv m, r)
  | 0x30 => do
      let (buf, r) ← getBytes r
      let (off, r) ← getNat r
      let (len, r) ← getNat r
      let (llAddr, r) ← getOptSaRef r
      let (keys, r) ← getBool r
      .ok (.vdsNew buf off len llAddr keys, r)
  | 0x31 => do
      let (v, r) ← getNat r
      .ok (.vdsDec v, r)
  | _ => .error (.unknownCode code)

/-- The operands of the frame requests, by code. -/
def decodeFrame (code : Byte) (r : Bytes) : Except DecodeError (Instr × Bytes) :=
  match code.toNat with
  | 0x40 => do
      let (c, r) ← getByte r
      let (a, r) ← getByte r
      .ok (.encShort c a, r)
  | 0x41 => do
      let (c, r) ← getByte r
      let (a, r) ← getByte r
      let (ci, r) ← getByte r
      let (data, r) ← getBytes r
      .ok (.encLong c a ci data, r)
  | 0x42 => do
      let (bs, r) ← getBytes r
      .ok (.chkSum bs, r)
  | 0x43 => do
      let (f, r) ← getBytes r
      .ok (.chkVerify f, r)
  | 0x44 => do
      let (buf, r) ← getBytes r
      .ok (.decFrame buf, r)
  | 0x45 => do
      let (buf, r) ← getBytes r
      .ok (.decShort buf, r)
  | 0x46 => do
      let (f, r) ← getBytes r
      .ok (.txFrame f, r)
  | 0x47 => do
      let (t, r) ← getNat r
      .ok (.rxFrame t, r)
  | _ => .error (.unknownCode code)

/-- The operands of the link requests, by code. -/
def decodeLink (code : Byte) (r : Bytes) : Except DecodeError (Instr × Bytes) :=
  match code.toNat with
  | 0x50 => do
      let (a, r) ← getByte r
      let (t, r) ← getNat r
      .ok (.lnkRead a t, r)
  | 0x51 => do
      let (a, r) ← getByte r
      let (payload, r) ← getBytes r
      let (t, r) ← getNat r
      .ok (.lnkWrite a payload t, r)
  | 0x52 => do
      let (a, r) ← getByte r
      let (t, r) ← getNat r
      .ok (.lnkReset a t, r)
  | 0x53 => do
      let (sa, r) ← getSaRef r
      let (t, r) ← getNat r
      .ok (.lnkSelect sa t, r)
  | 0x54 => do
      let (sa, r) ← getSaRef r
      let (t, r) ← getNat r
      .ok (.lnkDeselect sa t, r)
  | 0x55 => do
      let (a, r) ← getByte r
      let (payload, r) ← getBytes r
      let (t, r) ← getNat r
      .ok (.lnkSelrd a payload t, r)
  | 0x56 => do
      let (a, r) ← getByte r
      let (t, r) ← getNat r
      .ok (.lnkRstrd a t, r)
  | 0x57 => do
      let (wild, r) ← getFixed 8 r
      let (t, r) ← getNat r
      .ok (.lnkScansel wild t, r)
  | _ => .error (.unknownCode code)

/-- The operands of the wireless requests, by code. -/
def decodeWireless (code : Byte) (r : Bytes) : Except DecodeError (Instr × Bytes) :=
  match code.toNat with
  | 0x60 => do
      let (buf, r) ← getBytes r
      let (rssi, r) ← getBytes r
      .ok (.wlNew buf rssi, r)
  | 0x61 => do
      let (m, r) ← getNat r
      .ok (.wlDec m, r)
  | 0x62 => do
      let (m, r) ← getNat r
      .ok (.wlDeep m, r)
  | _ => .error (.unknownCode code)

/-- The operands of the scan requests, by code. -/
def decodeScan (code : Byte) (r : Bytes) : Except DecodeError (Instr × Bytes) :=
  match code.toNat with
  | 0x70 => do
      let (mask, r) ← getChars r
      .ok (.scanInit mask, r)
  | 0x71 => do
      let (t, r) ← getNat r
      .ok (.scanStep t, r)
  | 0x72 => .ok (.scanAdv, r)
  | 0x73 => .ok (.scanNarrow, r)
  | 0x74 => do
      let (mask, r) ← getChars r
      let (t, r) ← getNat r
      .ok (.scanRun mask t, r)
  | 0x75 => .ok (.scanAbort, r)
  | 0x76 => do
      let (value, r) ← getFixed 16 r
      .ok (.scanPack value, r)
  | 0x77 => do
      let (m, r) ← getChars r
      .ok (.maskFlip m, r)
  | _ => .error (.unknownCode code)

/-- The operands of the format requests, by code. -/
def decodeFormat (code : Byte) (r : Bytes) : Except DecodeError (Instr × Bytes) :=
  match code.toNat with
  | 0xE5 => .ok (.fAck, r)
  | 0x80 => do
      let (buf, r) ← getBytes r
      .ok (.fShort buf, r)
  | 0x81 => do
      let (buf, r) ← getBytes r
      .ok (.fLong buf, r)
  | 0x82 => do
      let (buf, r) ← getBytes r
      .ok (.fWl buf, r)
  | 0x83 => do
      let (buf, r) ← getBytes r
      .ok (.fSaLh buf, r)
  | 0x84 => do
      let (buf, r) ← getBytes r
      .ok (.fSaLl buf, r)
  | 0x85 => do
      let (m0, r) ← getByte r
      let (m1, r) ← getByte r
      .ok (.fMan m0 m1, r)
  | 0x86 => do
      let (buf, r) ← getBytes r
      .ok (.fSh buf, r)
  | 0x87 => do
      let (buf, r) ← getBytes r
      .ok (.fLh buf, r)
  | 0x88 => do
      let (buf, r) ← getBytes r
      .ok (.fDib buf, r)
  | 0x89 => do
      let (buf, r) ← getBytes r
      .ok (.fVib buf, r)
  | 0x8A => do
      let (code, r) ← getNibble r
      let (hint, r) ← getHint r
      let (buf, r) ← getBytes r
      .ok (.fData code hint buf, r)
  | 0x8B => do
      let (buf, r) ← getBytes r
      .ok (.lvar buf, r)
  | 0x8C => do
      let (b, r) ← getByte r
      .ok (.special b, r)
  | 0x8D => do
      let (b, r) ← getBytes r
      .ok (.fBcd b, r)
  | 0x8E => do
      let (raw, r) ← getFixed 8 r
      let (accessNumber, r) ← getByte r
      .ok (.fIv raw accessNumber, r)
  | 0x8F => do
      let (value, r) ← getFixed 16 r
      .ok (.fWild value, r)
  | 0x90 => do
      let (c, r) ← getByte r
      .ok (.cField c, r)
  | 0x91 => do
      let (c, r) ← getByte r
      .ok (.rspUdTest c, r)
  | 0x5B => .ok (.reqUd2 false, r)
  | 0x7B => .ok (.reqUd2 true, r)
  | 0x92 => do
      let (a, r) ← getByte r
      .ok (.aField a, r)
  | 0x93 => do
      let (ci, r) ← getByte r
      .ok (.ciField ci, r)
  | 0x94 => do
      let (b, r) ← getByte r
      .ok (.leadByte b, r)
  | _ => .error (.unknownCode code)

/-- The family a code byte belongs to, by its high nibble, and the decoding of its operands. The two REQ-UD2 bytes
`0x5B` and `0x7B` (R96) lie in the high nibbles 5 and 7 and are no code of R130. -/
def decodeOp (code : Byte) (r : Bytes) : Except DecodeError (Instr × Bytes) :=
  if code = 0x5B#8 ∨ code = 0x7B#8 then decodeFormat code r
  else match code.toNat / 16 with
  | 0 => decodeSession code r
  | 1 => decodeCodec code r
  | 2 => decodeData code r
  | 3 => decodeData code r
  | 4 => decodeFrame code r
  | 5 => decodeLink code r
  | 6 => decodeWireless code r
  | 7 => decodeScan code r
  | _ => decodeFormat code r

/-- The request a byte string begins with, and the bytes after it. -/
def decode : Bytes → Except DecodeError (Instr × Bytes)
  | [] => .error .empty
  | code :: r => decodeOp code r

/-! ## Operand encoders -/

/-- One byte. -/
def putByte (b : Byte) : Bytes := [b]

/-- `getNat`'s groups, with fuel; `n` itself is fuel enough. -/
def putNatAux : Nat → Nat → Bytes
  | 0, n => [BitVec.ofNat 8 n]
  | f + 1, n => if n < 128 then [BitVec.ofNat 8 n] else BitVec.ofNat 8 (128 + n % 128) :: putNatAux f (n / 128)

/-- A natural number. -/
def putNat (n : Nat) : Bytes := putNatAux n n

/-- A natural number that is at least 1. -/
def putPos (n : Nat) : Bytes := putNat (n - 1)

/-- An integer. -/
def putInt (v : Int) : Bytes := putNat (if 0 ≤ v then 2 * v.toNat else 2 * (-v).toNat - 1)

/-- Exactly these bytes. -/
def putFixed (bs : Bytes) : Bytes := bs

/-- A byte string. -/
def putBytes (bs : Bytes) : Bytes := putNat bs.length ++ bs

/-- Characters one after another. -/
def putCharsN : List Char → Bytes
  | [] => []
  | c :: cs => putNat c.toNat ++ putCharsN cs

/-- A character string. -/
def putChars (cs : List Char) : Bytes := putNat cs.length ++ putCharsN cs

/-- A truth value. -/
def putBool (b : Bool) : Bytes := [if b then 1#8 else 0#8]

/-- A session kind. -/
def putKind (k : SessionKind) : Bytes := putBool (match k with | .wired => false | .wireless => true)

/-- An address order. -/
def putOrder (o : SaOrder) : Bytes := putBool (match o with | .lh => false | .ll => true)

/-- A VIFTAB hint. -/
def putHint (h : Hint) : Bytes := putBool (match h with | .numeric => false | .date => true)

/-- A reference to an address. -/
def putSaRef : SaRef → Bytes
  | .obj n => 0#8 :: putNat n
  | .ofVds v => 1#8 :: putNat v
  | .ofMsg m => 2#8 :: putNat m
  | .found k => 3#8 :: putNat k

/-- An optional reference to an address. -/
def putOptSaRef : Option SaRef → Bytes
  | none => [0#8]
  | some a => 1#8 :: putSaRef a

/-- A reference to a record. -/
def putRecRef : RecRef → Bytes
  | .obj n => 0#8 :: putNat n
  | .ofVds v k => 1#8 :: (putNat v ++ putNat k)

/-- A reference to a Bcd object. -/
def putBcdRef : BcdRef → Bytes
  | .obj n => 0#8 :: putNat n
  | .deviceId a => 1#8 :: putSaRef a
  | .dataValue r => 2#8 :: putRecRef r

/-- The operand of KEY.GET. -/
def putAddrKey : AddrKey → Bytes
  | .raw r => 0#8 :: r
  | .sa a => 1#8 :: putSaRef a

/-! ## Requests -/

/-- The REQ_UD2 byte: `0x5B | (f << 5)` (R96). -/
def reqUd2Byte (f : Bool) : Byte := if f then 0x7B#8 else 0x5B#8


/-- The code a request begins with: 30_encoding.md R130 for the 51 operations; log 3 for the format rows. -/
def codeOf : Instr → Byte
  | .sesOpen _ _ => 0x00#8
  | .keyAdd _ _ => 0x01#8
  | .keyDel _ => 0x02#8
  | .keyGet _ => 0x03#8
  | .fcbGet _ => 0x04#8
  | .bcdDec _ => 0x10#8
  | .bcdStr _ => 0x11#8
  | .bcdInt _ => 0x12#8
  | .bcdLong _ => 0x13#8
  | .bcdEnc _ _ => 0x14#8
  | .manDec _ _ => 0x18#8
  | .manEnc _ => 0x19#8
  | .saLh _ _ => 0x1A#8
  | .saLl _ _ => 0x1B#8
  | .saRaw _ => 0x1C#8
  | .saEq _ _ => 0x1D#8
  | .saCmp _ _ => 0x1E#8
  | .saBuild _ _ _ _ _ => 0x1F#8
  | .drDec _ _ _ => 0x20#8
  | .drScale _ => 0x21#8
  | .aesDecrypt _ _ _ _ _ _ => 0x28#8
  | .aesEncrypt _ _ _ => 0x29#8
  | .vdsNew _ _ _ _ _ => 0x30#8
  | .vdsDec _ => 0x31#8
  | .encShort _ _ => 0x40#8
  | .encLong _ _ _ _ => 0x41#8
  | .chkSum _ => 0x42#8
  | .chkVerify _ => 0x43#8
  | .decFrame _ => 0x44#8
  | .decShort _ => 0x45#8
  | .txFrame _ => 0x46#8
  | .rxFrame _ => 0x47#8
  | .lnkRead _ _ => 0x50#8
  | .lnkWrite _ _ _ => 0x51#8
  | .lnkReset _ _ => 0x52#8
  | .lnkSelect _ _ => 0x53#8
  | .lnkDeselect _ _ => 0x54#8
  | .lnkSelrd _ _ _ => 0x55#8
  | .lnkRstrd _ _ => 0x56#8
  | .lnkScansel _ _ => 0x57#8
  | .wlNew _ _ => 0x60#8
  | .wlDec _ => 0x61#8
  | .wlDeep _ => 0x62#8
  | .scanInit _ => 0x70#8
  | .scanStep _ => 0x71#8
  | .scanAdv => 0x72#8
  | .scanNarrow => 0x73#8
  | .scanRun _ _ => 0x74#8
  | .scanAbort => 0x75#8
  | .scanPack _ => 0x76#8
  | .maskFlip _ => 0x77#8
  | .fAck => 0xE5#8
  | .fShort _ => 0x80#8
  | .fLong _ => 0x81#8
  | .fWl _ => 0x82#8
  | .fSaLh _ => 0x83#8
  | .fSaLl _ => 0x84#8
  | .fMan _ _ => 0x85#8
  | .fSh _ => 0x86#8
  | .fLh _ => 0x87#8
  | .fDib _ => 0x88#8
  | .fVib _ => 0x89#8
  | .fData _ _ _ => 0x8A#8
  | .lvar _ => 0x8B#8
  | .special _ => 0x8C#8
  | .fBcd _ => 0x8D#8
  | .fIv _ _ => 0x8E#8
  | .fWild _ => 0x8F#8
  | .cField _ => 0x90#8
  | .rspUdTest _ => 0x91#8
  | .reqUd2 f => reqUd2Byte f
  | .aField _ => 0x92#8
  | .ciField _ => 0x93#8
  | .leadByte _ => 0x94#8

/-- The operand bytes of a request, in the order of its operands (log 3). -/
def operandBytes : Instr → Bytes
  | .sesOpen kind port => putKind kind ++ putNat port
  | .keyAdd sa key => putSaRef sa ++ putBytes key
  | .keyDel sa => putSaRef sa
  | .keyGet k => putAddrKey k
  | .fcbGet a => putByte a
  | .bcdDec b => putBytes b
  | .bcdStr x => putBcdRef x
  | .bcdInt x => putBcdRef x
  | .bcdLong x => putBcdRef x
  | .bcdEnc v n => putInt v ++ putPos n
  | .manDec m0 m1 => putByte m0 ++ putByte m1
  | .manEnc str => putChars str
  | .saLh buf p => putBytes buf ++ putNat p
  | .saLl buf p => putBytes buf ++ putNat p
  | .saRaw x => putSaRef x
  | .saEq x y => putSaRef x ++ putSaRef y
  | .saCmp x y => putSaRef x ++ putSaRef y
  | .saBuild man deviceId version deviceType order => putChars man ++ putInt deviceId ++ putByte version ++ putByte deviceType ++ putOrder order
  | .drDec buf p remaining => putBytes buf ++ putNat p ++ putNat remaining
  | .drScale x => putRecRef x
  | .aesDecrypt key iv buf p avail blockCount => putBytes key ++ putBytes iv ++ putBytes buf ++ putNat p ++ putNat avail ++ putNat blockCount
  | .aesEncrypt key iv m => putBytes key ++ putBytes iv ++ putBytes m
  | .vdsNew buf off len llAddr keys => putBytes buf ++ putNat off ++ putNat len ++ putOptSaRef llAddr ++ putBool keys
  | .vdsDec v => putNat v
  | .encShort c a => putByte c ++ putByte a
  | .encLong c a ci data => putByte c ++ putByte a ++ putByte ci ++ putBytes data
  | .chkSum bs => putBytes bs
  | .chkVerify f => putBytes f
  | .decFrame buf => putBytes buf
  | .decShort buf => putBytes buf
  | .txFrame f => putBytes f
  | .rxFrame t => putNat t
  | .lnkRead a t => putByte a ++ putNat t
  | .lnkWrite a payload t => putByte a ++ putBytes payload ++ putNat t
  | .lnkReset a t => putByte a ++ putNat t
  | .lnkSelect sa t => putSaRef sa ++ putNat t
  | .lnkDeselect sa t => putSaRef sa ++ putNat t
  | .lnkSelrd a payload t => putByte a ++ putBytes payload ++ putNat t
  | .lnkRstrd a t => putByte a ++ putNat t
  | .lnkScansel wild t => putFixed wild ++ putNat t
  | .wlNew buf rssi => putBytes buf ++ putBytes rssi
  | .wlDec m => putNat m
  | .wlDeep m => putNat m
  | .scanInit mask => putChars mask
  | .scanStep t => putNat t
  | .scanAdv => []
  | .scanNarrow => []
  | .scanRun mask t => putChars mask ++ putNat t
  | .scanAbort => []
  | .scanPack value => putFixed value
  | .maskFlip m => putChars m
  | .fAck => []
  | .fShort buf => putBytes buf
  | .fLong buf => putBytes buf
  | .fWl buf => putBytes buf
  | .fSaLh buf => putBytes buf
  | .fSaLl buf => putBytes buf
  | .fMan m0 m1 => putByte m0 ++ putByte m1
  | .fSh buf => putBytes buf
  | .fLh buf => putBytes buf
  | .fDib buf => putBytes buf
  | .fVib buf => putBytes buf
  | .fData code hint buf => putByte code ++ putHint hint ++ putBytes buf
  | .lvar buf => putBytes buf
  | .special b => putByte b
  | .fBcd b => putBytes b
  | .fIv raw accessNumber => putFixed raw ++ putByte accessNumber
  | .fWild value => putFixed value
  | .cField c => putByte c
  | .rspUdTest c => putByte c
  | .reqUd2 _ => []
  | .aField a => putByte a
  | .ciField ci => putByte ci
  | .leadByte b => putByte b

/-- The bytes of a request. -/
def encode (i : Instr) : Bytes := codeOf i :: operandBytes i

/-! ## Table words -/

/-- The bytes of a table word: byte `k` is bits `8k+7 .. 8k` (spec/opcode_table.json numbers bit 0 as the least
significant bit of the first byte), followed by operand bytes of zero. 32 zeros are more than any request
needs whose every operand byte is zero (the longest is SCAN.PACK, 17 bytes). -/
def tableBytes (nbits w : Nat) : Bytes :=
  (List.range ((nbits + 7) / 8)).map (fun k => BitVec.ofNat 8 (w >>> (8 * k))) ++ List.replicate 32 0#8

/-- The request the decoder reads from a table word of `nbits` bits. -/
def decodeTableWord (nbits w : Nat) : Option Instr :=
  match decode (tableBytes nbits w) with
  | .ok (i, _) => some i
  | .error _ => none

end Sys2Proof
end

