-- ==== Sys2Proof/Config.lean ====
section
/-! DEFINITION. What the spec leaves to the implementation: the parameters of 00_scope.md R6, as plain data that a
state carries (log 7), the names they use, the sizes R6 fixes, and the free values (logs 13 and 14). -/

namespace Sys2Proof

/-! ## Sizes and constants of R6 -/

/-- `SA_LEN`: bytes of a secondary address. -/
def Config.saLen : Nat := 8
/-- `KEY_LEN`: bytes of an AES key. -/
def Config.keyLen : Nat := 16
/-- `BLOCK_LEN`: bytes of an AES block and of the IV. -/
def Config.blockLen : Nat := 16
/-- `MAX_DATA`: greatest number of data bytes of a long frame. -/
def Config.maxData : Nat := 252
/-- `SEL_ADDR`: the primary address that reaches the selected device. -/
def Config.selAddr : Byte := 0xFD#8
/-- `SCAN_NIBBLES`: nibble positions of the scanner. -/
def Config.scanNibbles : Nat := 16
/-- `SCAN_MAXPOS`: greatest value of `pos`. -/
def Config.scanMaxPos : Nat := 7
/-- `C_SND_UD_WR`: control byte of LNK.WRITE. -/
def Config.cSndUdWr : Byte := 0x73#8

/-! ## Names the parameter tables use -/

/-- Semantic quantity of a record (10_state.md R30). The list is open (91 N5): the named ones are those of
42_data_record.md R207, every other name of a table is `other`. -/
inductive Description where
  | energy | volume | mass | onTime | operatingTime | power | volumeFlow | volumeFlowExt | massFlow
  | flowTemperature | returnTemperature | temperatureDifference | externalTemperature | pressure
  | date | dateTime | hca | averagingDuration | actualityDuration | fabricationNo
  | enhancedIdentification | busAddress
  | other (name : List Char)
  deriving DecidableEq, Repr

/-- Unit of a value (R30). Open like `Description`; `reserved` is what an unknown DLMS unit id gives (R120). -/
inductive DlmsUnit where
  | none | wattHour | joule | cubicMetre | kilogram | second | min | hour | day | watt | joulePerHour
  | cubicMetrePerHour | cubicMetrePerMinute | cubicMetrePerSecond | kilogramPerHour | degreeCelsius
  | kelvin | bar
  | reserved
  | other (name : List Char)
  deriving DecidableEq, Repr

/-- The unit column of a VIFTAB entry: a unit by name, or a DLMS unit id looked up in DLMSUNIT_TAB (log 21). -/
inductive UnitRef where
  | unit (u : DlmsUnit)
  | dlmsId (id : Byte)
  deriving DecidableEq, Repr

/-- An entry of VIFTAB (42_data_record.md R195); `multiplierExponent` is a signed 8-bit integer. -/
structure VifEntry where
  description : Description
  unit : UnitRef
  multiplierExponent : BitVec 8
  hint : Hint
  deriving DecidableEq, Repr

/-! ## The parameters -/

/-- The OPEN parameters of R6 and 92_eei_decisions.md section 10: "fixed before SES.OPEN, never changed by any
operation" (70_reset_and_hazards.md R520). A finite map is a list of pairs; the first pair with the key counts. -/
structure Params where
  /-- VIB bytes, extension bits included, to an entry (R195). -/
  viftab : List (Bytes × VifEntry)
  /-- Device type byte to its name (R28). -/
  devtypeTab : List (Byte × List Char)
  /-- DLMS unit id to a unit (R120). -/
  dlmsUnitTab : List (Byte × DlmsUnit)
  /-- `VDS_TAIL` (R300). -/
  vdsTail : Nat
  /-- `VDS_MIN_BEFORE_TAIL` (R300). -/
  vdsMinBeforeTail : Nat
  /-- `RX_ENFORCE_INTEGRITY` (R334). -/
  rxEnforceIntegrity : Bool
  /-- `C_SND_UD_SEL` (R95). -/
  cSndUdSel : Byte
  /-- `SCAN_INIT_ZERO` (R424). -/
  scanInitZero : Bool
  deriving DecidableEq, Repr

/-! ## Free values -/

/-- Free value (93 U6, log 14): the binary64 bit pattern from which the sign and the fraction of the NaN are taken
that a binary32 NaN with these 32 bits becomes. No body: nothing can be proved about it. -/
opaque Config.freeNaN : BitVec 32 → BitVec 64

/-- Free value (93 U16, log 35): the 8 bytes from which the address of the `n`-th wireless message is taken while no rule
has written it. No body. -/
opaque Config.freeAddress : Nat → BitVec 64

/-- Free value (92 D52, log 13): the text of the `n`-th onScanMessage. No body. -/
opaque Config.scanMessageText : Nat → List Char

end Sys2Proof
end

