-- ==== Sys2Proof/Machine/Tables.lean ====
section
/-! DEFINITION. The parameter values a state has right after reset: the defaults of 00_scope.md R6 and of
92_eei_decisions.md section 10, with the VIFTAB that 42_data_record.md R207 offers (log 7). Only `State.reset`
uses these values; every operation reads the parameters of its state. -/

namespace Sys2Proof.Machine

/-- SECOND, MIN, HOUR, DAY for `nn = 0, 1, 2, 3` (R207). -/
def timeUnit (nn : Nat) : DlmsUnit :=
  match nn with
  | 0 => .second
  | 1 => .min
  | 2 => .hour
  | _ => .day

/-- A table entry with a unit by name. -/
def vifRow (d : Description) (u : DlmsUnit) (e : Int) (h : Hint) : VifEntry :=
  { description := d, unit := .unit u, multiplierExponent := BitVec.ofInt 8 e, hint := h }

/-- The row of R207 for the one-byte VIB `v`, if the default table has one. `n` is `v[2:0]`, `nn` is `v[1:0]`. -/
def defaultVif (v : Nat) : Option VifEntry :=
  let n : Int := (v % 8 : Nat)
  let nn : Int := (v % 4 : Nat)
  if v ≤ 0x07 then some (vifRow .energy .wattHour (n - 3) .numeric)
  else if v ≤ 0x0F then some (vifRow .energy .joule n .numeric)
  else if v ≤ 0x17 then some (vifRow .volume .cubicMetre (n - 6) .numeric)
  else if v ≤ 0x1F then some (vifRow .mass .kilogram (n - 3) .numeric)
  else if v ≤ 0x23 then some (vifRow .onTime (timeUnit (v % 4)) 0 .numeric)
  else if v ≤ 0x27 then some (vifRow .operatingTime (timeUnit (v % 4)) 0 .numeric)
  else if v ≤ 0x2F then some (vifRow .power .watt (n - 3) .numeric)
  else if v ≤ 0x37 then some (vifRow .power .joulePerHour n .numeric)
  else if v ≤ 0x3F then some (vifRow .volumeFlow .cubicMetrePerHour (n - 6) .numeric)
  else if v ≤ 0x47 then some (vifRow .volumeFlowExt .cubicMetrePerMinute (n - 7) .numeric)
  else if v ≤ 0x4F then some (vifRow .volumeFlowExt .cubicMetrePerSecond (n - 9) .numeric)
  else if v ≤ 0x57 then some (vifRow .massFlow .kilogramPerHour (n - 3) .numeric)
  else if v ≤ 0x5B then some (vifRow .flowTemperature .degreeCelsius (nn - 3) .numeric)
  else if v ≤ 0x5F then some (vifRow .returnTemperature .degreeCelsius (nn - 3) .numeric)
  else if v ≤ 0x63 then some (vifRow .temperatureDifference .kelvin (nn - 3) .numeric)
  else if v ≤ 0x67 then some (vifRow .externalTemperature .degreeCelsius (nn - 3) .numeric)
  else if v ≤ 0x6B then some (vifRow .pressure .bar (nn - 3) .numeric)
  else if v = 0x6C then some (vifRow .date .none 0 .date)
  else if v = 0x6D then some (vifRow .dateTime .none 0 .date)
  else if v = 0x6E then some (vifRow .hca .none 0 .numeric)
  else if v = 0x6F then none
  else if v ≤ 0x73 then some (vifRow .averagingDuration (timeUnit (v % 4)) 0 .numeric)
  else if v ≤ 0x77 then some (vifRow .actualityDuration (timeUnit (v % 4)) 0 .numeric)
  else if v = 0x78 then some (vifRow .fabricationNo .none 0 .numeric)
  else if v = 0x79 then some (vifRow .enhancedIdentification .none 0 .numeric)
  else if v = 0x7A then some (vifRow .busAddress .none 0 .numeric)
  else none

/-- The default VIFTAB of R207: the one-byte VIBs. -/
def defaultViftab : List (Bytes × VifEntry) :=
  (List.range 128).filterMap (fun v => (defaultVif v).map (fun e => ([BitVec.ofNat 8 v], e)))

/-- The default parameters (R6; 92 section 10). -/
def defaultParams : Params where
  viftab := defaultViftab
  devtypeTab := []
  dlmsUnitTab := []
  vdsTail := 2
  vdsMinBeforeTail := 2
  rxEnforceIntegrity := false
  cSndUdSel := 0x53#8
  scanInitZero := true

end Sys2Proof.Machine
end

