-- ==== Sys2Proof/Machine/State.lean ====
section
/-! DEFINITION. The state of MBC as plain data: session state, objects, ports (10_state.md), the failures of
60_exceptions.md, the refusals of 93_implementation_defined.md, and the state right after reset. -/

namespace Sys2Proof.Machine

/-! ## Failures (60_exceptions.md R461) -/

/-- The three classes of synchronous failure (R460). -/
inductive FailureClass where
  | decodingException
  | timeout
  | protocolError
  deriving DecidableEq, Repr

/-- The seventeen causes of R461; a cause fixes its class. -/
inductive Cause where
  | bcdInvalidNibble
  | truncatedBuffer
  | unrecognisedDifVif
  | unsupportedEncryptionMode
  | manufacturerSpecificCI
  | unsupportedCI
  | wirelessLengthExceedsBuffer
  | malformedFrame
  | unexpectedByte
  | missingKey
  | wrongKey
  | blockCountExceedsPayload
  | missingLinkLayerAddress
  | noResponse
  | incompleteResponse
  | unexpectedResponse
  | wrongMessageType
  deriving DecidableEq, Repr

/-! ## Objects (10_state.md R28 to R35) -/

/-- Bcd object (R29): the source bytes, the sign sentinel, the decimal digits from the least significant. -/
structure Bcd where
  bytes : Bytes
  negative : Bool
  digits : List Nat
  deriving DecidableEq, Repr

/-- SecondaryAddress object (R28). `raw` is the 8-byte window it was built from, in that order. -/
structure SecondaryAddress where
  manufacturerId : List Char
  deviceId : Bcd
  version : Byte
  deviceType : Byte
  raw : Bytes
  deriving DecidableEq, Repr

/-- Function field of a record (R30, 42_data_record.md R193). -/
inductive FunctionField where
  | instVal
  | maxVal
  | minVal
  | errorVal
  deriving DecidableEq, Repr

/-- The fields of a compact date, type G (R202). -/
structure DateG where
  day : Nat
  month : Nat
  year : Nat
  deriving DecidableEq, Repr

/-- The fields of a date and time, type F (R203). -/
structure DateF where
  minute : Nat
  invalid : Bool
  hour : Nat
  summer : Bool
  day : Nat
  month : Nat
  year : Nat
  deriving DecidableEq, Repr

/-- `dataValue` with its `dataValueType` (R30): the constructor is the type. `long` is a signed 64-bit integer,
`double` an IEEE 754 binary64 bit pattern. -/
inductive DataValue where
  | none
  | long (v : BitVec 64)
  | double (bits : BitVec 64)
  | bcd (b : Bcd)
  | dateG (d : DateG)
  | dateF (d : DateF)
  | string (cs : List Char)
  deriving DecidableEq, Repr

/-- The names of `dataValueType` (R30). -/
inductive DataValueType where
  | long
  | double
  | bcd
  | date
  | string
  | none
  deriving DecidableEq, Repr

/-- DataRecord object (R30). -/
structure DataRecord where
  dib : Bytes
  vib : Bytes
  functionField : FunctionField
  storageNumber : Nat
  tariff : Nat
  subunit : Nat
  description : Description
  unit : DlmsUnit
  /-- A signed 8-bit integer. -/
  multiplierExponent : BitVec 8
  dataValue : DataValue
  deriving DecidableEq, Repr

/-- The 16 encryption modes (R32): ids 0 and 5 have names, the other fourteen are `reserved`. -/
inductive EncMode where
  | none
  | aesCbcIv
  | reserved (id : BitVec 4)
  deriving DecidableEq, Repr

/-- The four bytes of a short header, read (30_encoding.md R104). -/
structure ShortHeader where
  accessNumber : Byte
  status : Byte
  /-- An 8-bit field holding `0..15`. -/
  numberOfEncryptedBlocks : Byte
  encryptionMode : EncMode
  deriving DecidableEq, Repr

/-- Phase of a VDS object (R31). -/
inductive VdsPhase where
  | raw
  | decoded
  | failed
  deriving DecidableEq, Repr

/-- VDS object (R31). `keys` says whether it holds a reference to the session's KEYMAP; never a copy (R25). -/
structure Vds where
  buf : Bytes
  off : Nat
  len : Nat
  llAddr : Option SecondaryAddress
  keys : Bool
  phase : VdsPhase
  ci : Byte
  secondaryAddress : Option SecondaryAddress
  headerPresent : Bool
  accessNumber : Byte
  status : Byte
  numberOfEncryptedBlocks : Byte
  encryptionMode : EncMode
  dataRecords : List DataRecord
  manufacturerData : Bytes
  moreRecordsFollow : Bool
  deriving DecidableEq, Repr

/-- Receive integrity flags of a long frame (R36). -/
structure IntegrityFlags where
  lenOk : Bool
  start2Ok : Bool
  cksOk : Bool
  stopOk : Bool
  deriving DecidableEq, Repr

/-- Received long frame (R33, 45_wired_frame.md R334). -/
structure LongFrame where
  l : Byte
  control : Byte
  address : Byte
  ci : Byte
  payload : Bytes
  checksum : Byte
  bytes : Bytes
  flags : IntegrityFlags
  deriving DecidableEq, Repr

/-- Received wired frame (R33): never a short frame (90_conflicts.md C13). -/
inductive WiredFrame where
  | singleCharacter
  | long (f : LongFrame)
  deriving DecidableEq, Repr

/-- Result of DEC.SHORT (R335). -/
structure ShortFrame where
  control : Byte
  address : Byte
  checksum : Byte
  cksOk : Bool
  stopOk : Bool
  deriving DecidableEq, Repr

/-- Phase of a wireless message (R34). -/
inductive MsgPhase where
  | raw
  | header
  | deep
  | failed
  deriving DecidableEq, Repr

/-- Wireless message object (R34). `rssi` is the driver's token, never interpreted (log 25); `vds` is a reference
into `State.vdss`. -/
structure WlMessage where
  buf : Bytes
  rssi : Bytes
  phase : MsgPhase
  length : Byte
  control : Byte
  secondaryAddress : Option SecondaryAddress
  vds : Option Nat
  deriving DecidableEq, Repr

/-- Scanner state (R35). R35 gives a nibble "at least 5 bits"; `value` holds natural numbers, without a greatest one (log 36:
DESIGN CHOICE). `running` is the spec's "a scan runs" (48_scanner.md R438, log 11). -/
structure Scanner where
  pos : Nat
  value : List Nat
  found : List SecondaryAddress
  stop : Bool
  abortReq : Bool
  running : Bool
  deriving DecidableEq, Repr

/-! ## Ports (R40 to R44) -/

/-- What comes next while an operation runs (the oracle of R38, log 5): the transport delivers a byte, or lets a read time
out, or a SCAN.ABORT arrives (60_exceptions.md R482), `abort` while a read waits, `abortBetween` while none does: before the
first step of a scan or between two (48_scanner.md R438; log 11). -/
inductive TpEvent where
  | byte (b : Byte)
  | timeout
  | abort
  | abortBetween
  deriving DecidableEq, Repr

/-- The five events of the EVT port (60_exceptions.md R480). -/
inductive Event where
  | onMessage (m : Nat) (rssi : Bytes)
  | onDiscardedBytes (bs : Bytes)
  | onStoppedListening (cause : Bytes)
  | onDeviceFound (sa : SecondaryAddress)
  | onScanMessage (text : List Char)
  deriving DecidableEq, Repr

/-- What waits at the inputs, oldest first: a request of the CMD port as bytes, or a transaction of the WL-IN port
(R41, R44, R480; log 4). -/
inductive Input where
  | request (bs : Bytes)
  | wlDeliver (buf rssi : Bytes)
  | wlDiscarded (bs : Bytes)
  | wlStopped (cause : Bytes)
  deriving DecidableEq, Repr

/-! ## Results -/

/-- A scaled value (42_data_record.md R210): an exact rational, a DOUBLE that is infinite or NaN (itself), a value
that is not scaled, or nothing. -/
inductive Scaled where
  | rational (q : ℚ)
  | double (bits : BitVec 64)
  | unscaled (v : DataValue)
  | nothing
  deriving DecidableEq, Repr

/-- The fields of a DIB (30_encoding.md R106, 42_data_record.md R193). -/
structure DibFields where
  dib : Bytes
  code : Nat
  functionField : FunctionField
  storageNumber : Nat
  tariff : Nat
  subunit : Nat
  deriving DecidableEq, Repr

/-- What the byte at the cursor of the record loop is (30_encoding.md R110). -/
inductive SpecialByte where
  | fill
  | marker (more : Bool)
  | dif
  deriving DecidableEq, Repr

/-- Names of the control byte (30_encoding.md R95). -/
inductive ControlName where
  | sndNke
  | reqUd2 (fcb : Bool)
  | sndUdWrite
  | sndUdSelect
  | rspUd
  deriving DecidableEq, Repr

/-- What MBC uses a CI value for when it sends it (30_encoding.md R99). -/
inductive CiSent where
  | resetReadout
  | dataSendOrSelectForReadout
  | select
  | deselect
  deriving DecidableEq, Repr

/-- What a received CI value means (R99). -/
inductive CiReceived where
  | longHeader
  | noHeader
  | shortHeader
  | manufacturerSpecific
  | unsupported
  deriving DecidableEq, Repr

/-- The fields a format request reads (log 19). -/
inductive FormatFields where
  | wireless (length control : Byte) (sa : SecondaryAddress) (vdsOff vdsLen : Nat)
  | address (sa : SecondaryAddress)
  | letterGroups (a b c : BitVec 5)
  | shortHeader (h : ShortHeader)
  | longHeader (sa : SecondaryAddress) (h : ShortHeader)
  | dib (d : DibFields)
  | vib (vib : Bytes) (e : VifEntry)
  | data (v : DataValue) (used : Nat)
  | special (k : SpecialByte)
  | bcd (b : Bcd)
  | control (names : List ControlName)
  | addressField (selectedDevice : Bool)
  | ci (sent : Option CiSent) (received : CiReceived)
  | lead (longFrame : Bool)
  deriving DecidableEq, Repr

/-- The value of a result (R44). Objects are answered by reference (log 16). -/
inductive Value where
  | none
  | session (kind : SessionKind) (port : Nat)
  | key (k : Option Bytes)
  | bit (b : Bool)
  | byte (b : Byte)
  | bytes (bs : Bytes)
  | text (cs : List Char)
  | int32 (v : BitVec 32)
  | int64 (v : BitVec 64)
  | order (o : Int)
  | bcd (n : Nat)
  | address (n : Nat)
  | record (n : Nat) (nextOffset : Nat)
  | vds (n : Nat)
  | message (m : Nat)
  | scaled (v : Scaled)
  | frame (f : WiredFrame) (used : Nat)
  | received (f : WiredFrame)
  | shortFrame (f : ShortFrame)
  | scanner (pos : Nat) (value : List Nat)
  | found (l : List SecondaryAddress)
  | fields (f : FormatFields)
  deriving DecidableEq, Repr

/-- What the CMD port returns: a result or an exception (R44). -/
inductive Response where
  | result (v : Value)
  | exception (c : Cause)
  deriving DecidableEq, Repr

/-- State of the link layer (R27). -/
inductive LinkState where
  | idle
  | awaitingResponse
  deriving DecidableEq, Repr

/-- KEYMAP (R25): 8 raw bytes to 16 key bytes, as pairs with the addresses strictly rising in the order of SA.CMP
(log 8). An address that is not listed has no key. -/
abbrev KeyMap := List (Bytes × Bytes)

/-! ## The state -/

/-- One session of MBC with its objects, its parameters and the traffic of its ports. A wireless session has no
`fcb`, `lastTx`, `link`, scanner and TP port (R20); those fields then hold their reset values and no operation
reads them (log 18). -/
structure State where
  /-- The kind given to SES.OPEN (R400). -/
  kind : SessionKind
  /-- The port given to SES.OPEN (R400). -/
  port : Nat
  /-- The parameters (R6): never written (R520). -/
  params : Params
  /-- FCB: bit `a` for primary address `a` (R24). -/
  fcb : BitVec 256
  /-- KEYMAP (R25). -/
  keymap : KeyMap
  /-- LASTTX (R26). -/
  lastTx : Option Bytes
  /-- LINK (R27). -/
  link : LinkState
  /-- The scanner (R35). -/
  scanner : Scanner
  /-- Bcd objects, by reference. -/
  bcds : List Bcd
  /-- SecondaryAddress objects, by reference. -/
  addrs : List SecondaryAddress
  /-- DataRecord objects, by reference. -/
  recs : List DataRecord
  /-- VDS objects, by reference. -/
  vdss : List Vds
  /-- Wireless messages, by reference. -/
  msgs : List WlMessage
  /-- What the transport will do (R40, R46); past its end every read times out. -/
  tpIn : List TpEvent
  /-- The frames handed to the transport, oldest first (R40). -/
  tpOut : List Bytes
  /-- The events emitted, oldest first (R43). -/
  evts : List Event
  /-- Whether a listener is attached (R480, R524). -/
  listener : Bool
  /-- What waits at the inputs, oldest first (log 4). -/
  inp : List Input
  /-- What the CMD port returned last (R44). -/
  resp : Option Response
  /-- The model's own: how many free values have been drawn (log 13). -/
  free : Nat
  deriving DecidableEq, Repr

/-! ## How a step can stop -/

/-- Faults: an access to something that the spec says does not exist. Each is safe: the model stops. -/
inductive Fault where
  /-- An operand refers to an object that no operation created, or to a field that is not exposed (R31, R47).
  Raised by every operation with an object operand. Safe. -/
  | noSuchObject
  /-- A wireless session has no TP port (R20, R40). Raised by TX.FRAME, RX.FRAME, LNK.*, SCAN.STEP and SCAN.RUN. Safe. -/
  | noTransport
  /-- A wireless session has no FCB table (R20, R406). Raised by FCB.GET. Safe. -/
  | noFcbTable
  /-- A wired session has no WL-IN port (R20, R41). Raised by WL.NEW and by the WL-IN transactions. Safe. -/
  | noWirelessInput
  /-- A wireless session has no scanner (R20). Raised by SCAN.INIT, SCAN.ADV and SCAN.NARROW. Safe. -/
  | noScanner
  deriving DecidableEq, Repr

/-- Refusals: the spec's `refuse(<Reason>)` (R9; 93 part 1), and the model's own by name. Each is safe: the state is
not changed and no value is returned. -/
inductive Refusal where
  /-- An instruction without a meaning; raised by no operation of this model. Safe. -/
  | notModelled (mnemonic : String)
  /-- A request whose bytes are no request (log 27). Raised by the step. Safe. -/
  | undecodable (e : DecodeError)
  /-- 93 U1; BCD.INT. Safe. -/
  | intOverflow
  /-- 93 U2; BCD.LONG, DR.SCALE. Safe. -/
  | longOverflow
  /-- 93 U3; MAN.ENC, SA.BUILD. Safe. -/
  | manufacturerIdNotUppercase
  /-- 93 U4; BCD.DEC, F-BCD, BCD.ENC of no byte (log 23). Safe. -/
  | emptyBcd
  /-- 93 U5; BCD.ENC, SA.BUILD. Safe. -/
  | bcdEncodeRange
  /-- 93 U7; AES.ENCRYPT. Safe. -/
  | plaintextNotBlockMultiple
  /-- 93 U8; ENC.LONG and the link operations that build a long frame. Safe. -/
  | payloadTooLong
  /-- 93 U9; MASK.FLIP, SCAN.INIT, SCAN.RUN. Safe. -/
  | badMask
  /-- 93 U10; VDS.DEC, WL.DEC, WL.DEEP. Safe. -/
  | decodeTwice
  /-- 93 U11; KEY.ADD, AES.DECRYPT, AES.ENCRYPT. Safe. -/
  | badKeyOrIvLength
  /-- 93 U12; every link operation, SCAN.STEP, SCAN.RUN; TX.FRAME and RX.FRAME (45_wired_frame.md R320; log 22). Safe. -/
  | linkBusy
  /-- SCAN.NARROW at `pos = 7`, where the spec never calls it (R428, R434; log 10). Safe. -/
  | narrowAtMaxPos
  /-- TX.FRAME of a single-character frame, which "MBC never transmits" (30_encoding.md R91, 45_wired_frame.md R323; log 31).
  Safe. -/
  | singleCharacterOnlyReceived
  deriving DecidableEq, Repr

/-- The outcome of an operation: a next state (a result or an exception of the spec), a fault, or a refusal. -/
abbrev Out := Host.Outcome State Fault Refusal

/-! ## Reset -/

/-- The scanner when no scan runs (R47); the values the spec leaves unspecified are those of log 9. -/
def Scanner.init : Scanner :=
  { pos := 0, value := List.replicate 16 0, found := [], stop := false, abortReq := false, running := false }

/-- The state right after SES.OPEN of a wired session (R47, R520), with nothing waiting at any port. -/
def State.reset : State where
  kind := .wired
  port := 0
  params := defaultParams
  fcb := BitVec.allOnes 256
  keymap := []
  lastTx := none
  link := .idle
  scanner := Scanner.init
  bcds := []
  addrs := []
  recs := []
  vdss := []
  msgs := []
  tpIn := []
  tpOut := []
  evts := []
  listener := true
  inp := []
  resp := none
  free := 0

end Sys2Proof.Machine
end

