-- ==== Sys2Proof/Machine/Bytes.lean ====
section
/-! DEFINITION. Reading byte strings: nibbles, byte order, sign extension, windows and bounded reads
(00_scope.md R7, R8; 20_memory.md R61 to R66), checksum (45_wired_frame.md R330), comparison of byte strings
(41_secondary_address.md R177). -/

namespace Sys2Proof.Machine

/-- The ending of a decoder: a value, or the cause of the exception it raises. -/
abbrev Dec (α : Type) := Except Cause α

/-- `hi(b)`: the most significant nibble (R7). -/
def hi (b : Byte) : Nat := b.toNat / 16

/-- `lo(b)`: the least significant nibble (R7). -/
def lo (b : Byte) : Nat := b.toNat % 16

/-- `v[hi:lo]` as a number: the `w` bits of `v` from bit `k` up (R7). -/
def bitsOf (v k w : Nat) : Nat := v / 2 ^ k % 2 ^ w

/-- `le_N(s)`: the first byte is least significant (R8, R61). -/
def leNat : Bytes → Nat
  | [] => 0
  | b :: bs => b.toNat + 256 * leNat bs

/-- `sext_N(v)` (R8). -/
def sext (n v : Nat) : Int := if v < 2 ^ (n - 1) then (v : Int) else (v : Int) - 2 ^ n

/-- The byte whose nibbles are `h` and `l`. -/
def nibbles (h l : Nat) : Byte := BitVec.ofNat 8 (h % 16 * 16 + l % 16)

/-- The bytes of the window `(buf, off, len)`; a window past the buffer is malformed (R65). -/
def window (buf : Bytes) (off len : Nat) : Dec Bytes :=
  if off + len > buf.length then .error .truncatedBuffer else .ok ((buf.drop off).take len)

/-- `MemRead` at the cursor: the first `n` bytes of what is left of the window, and the rest; past the bound it
raises TruncatedBuffer (R8, R66). -/
def memRead (n : Nat) (w : Bytes) : Dec (Bytes × Bytes) :=
  if w.length < n then .error .truncatedBuffer else .ok (w.take n, w.drop n)

/-- `MemRead` of one byte at the cursor. -/
def memReadByte : Bytes → Dec (Byte × Bytes)
  | [] => .error .truncatedBuffer
  | b :: w => .ok (b, w)

/-- Byte `k` of a byte string that was read whole; 0 past its end, where no rule looks. -/
def byteAt (s : Bytes) (k : Nat) : Byte := s.getD k 0#8

/-- The arithmetic sum of the bytes. -/
def byteSum : Bytes → Nat
  | [] => 0
  | b :: bs => b.toNat + byteSum bs

/-- CHK.SUM: the sum modulo 256 (R330). -/
def checksum (bs : Bytes) : Byte := BitVec.ofNat 8 (byteSum bs)

/-- Lexicographic comparison, byte 0 first, bytes as unsigned integers (R177). -/
def cmpBytes : Bytes → Bytes → Ordering
  | [], [] => .eq
  | [], _ :: _ => .lt
  | _ :: _, [] => .gt
  | a :: as, b :: bs => if a.toNat < b.toNat then .lt else if b.toNat < a.toNat then .gt else cmpBytes as bs

/-- `char(c)`: the character with this code (R162, R201). -/
def charOf (n : Nat) : Char := Char.ofNat n

/-- A chain of bytes of which every one but the last has bit 7 set (30_encoding.md R106, R107): the chain and the
bytes after it. A chain that reaches the bound raises TruncatedBuffer (42_data_record.md R192). -/
def chain : Bytes → Dec (Bytes × Bytes)
  | [] => .error .truncatedBuffer
  | b :: w =>
    if b.toNat < 128 then .ok ([b], w)
    else do
      let (bs, w) ← chain w
      .ok (b :: bs, w)

end Sys2Proof.Machine
end

