-- ==== Sys2Proof/Machine/Flags.lean ====
section
/-! DEFINITION. The flags of MBC (10_state.md R23): the frame count bits, the sign of a Bcd, the receive integrity
flags of a long frame, `moreRecordsFollow`. And what the control byte and the CI byte say (30_encoding.md R95 to
R99). MBC has no carry, zero, overflow or condition-code flags. -/

namespace Sys2Proof.Machine

/-! ## Frame count bits (R24) -/

/-- `FCB[a]`. -/
def fcbGet (fcb : BitVec 256) (a : Byte) : Bool := fcb.getLsbD a.toNat

/-- `FCB[a] <- FCB[a] XOR 1` (45_wired_frame.md R350). -/
def fcbToggle (fcb : BitVec 256) (a : Byte) : BitVec 256 := fcb ^^^ (1#256 <<< a.toNat)

/-- `FCB[a] <- 1` (R352). -/
def fcbSet (fcb : BitVec 256) (a : Byte) : BitVec 256 := fcb ||| (1#256 <<< a.toNat)

/-- The control byte of REQ_UD2: `0x5B | (f << 5)` (30_encoding.md R96). -/
def reqUd2Control (f : Bool) : Byte := 0x5B#8 ||| (if f then 0x20#8 else 0#8)

/-! ## Sign of a Bcd (R29) -/

/-- `hi(b[n-1]) == 0xF`: the sentinel (40_bcd.md R141). -/
def bcdNegative (b : Bytes) : Bool := hi (b.getLastD 0#8) == 15

/-! ## Received long frame -/

/-- `len_ok`, `start2_ok`, `cks_ok`, `stop_ok` of the frame bytes `f[0..L+6)` (R36). -/
def integrityFlags (l : Byte) (f : Bytes) : IntegrityFlags where
  lenOk := byteAt f 2 == l
  start2Ok := byteAt f 3 == 0x68#8
  cksOk := byteAt f (l.toNat + 4) == checksum ((f.drop 4).take l.toNat)
  stopOk := byteAt f (l.toNat + 5) == 0x16#8

/-- All four flags set. -/
def IntegrityFlags.all (g : IntegrityFlags) : Bool := g.lenOk && g.start2Ok && g.cksOk && g.stopOk

/-- The message type is RSP_UD: `C & 0xCF == 0x08` (30_encoding.md R97). -/
def isRspUd (c : Byte) : Bool := (c &&& 0xCF#8) == 0x08#8

/-! ## Record loop (44_vds.md R300 to R302) -/

/-- What the byte at the cursor is (30_encoding.md R110): the fill byte, a marker (`x & 0xEF == 0x0F`, with bit
`0x10` for "more records follow"), or the DIF of a record. -/
def specialByte (x : Byte) : SpecialByte :=
  if x = 0x2F#8 then .fill
  else if (x &&& 0xEF#8) = 0x0F#8 then .marker ((x &&& 0x10#8) != 0#8)
  else .dif

/-! ## Values of the control and CI bytes -/

/-- Every name a control byte has (R95); the byte of the select family is a parameter. -/
def controlNames (sel c : Byte) : List ControlName :=
  (if c = 0x40#8 then [.sndNke] else []) ++
  (if c = 0x7B#8 then [.reqUd2 true] else []) ++
  (if c = 0x5B#8 then [.reqUd2 false] else []) ++
  (if c = Config.cSndUdWr then [.sndUdWrite] else []) ++
  (if c = sel then [.sndUdSelect] else []) ++
  (if isRspUd c then [.rspUd] else [])

/-- What MBC sends a CI value for (R99). -/
def ciSent (ci : Byte) : Option CiSent :=
  if ci = 0x50#8 then some .resetReadout
  else if ci = 0x51#8 then some .dataSendOrSelectForReadout
  else if ci = 0x52#8 then some .select
  else if ci = 0x56#8 then some .deselect
  else none

/-- What a received CI value means (R99, 44_vds.md R283). -/
def ciReceived (ci : Byte) : CiReceived :=
  if ci = 0x72#8 then .longHeader
  else if ci = 0x78#8 then .noHeader
  else if ci = 0x7A#8 then .shortHeader
  else if 0xA0 ≤ ci.toNat ∧ ci.toNat ≤ 0xB7 then .manufacturerSpecific
  else .unsupported

/-! ## Failure classes and codes (60_exceptions.md R461) -/

/-- The class of a cause. -/
def Cause.failureClass : Cause → FailureClass
  | .bcdInvalidNibble | .truncatedBuffer | .unrecognisedDifVif | .unsupportedEncryptionMode
  | .manufacturerSpecificCI | .unsupportedCI | .wirelessLengthExceedsBuffer | .malformedFrame | .unexpectedByte
  | .missingKey | .wrongKey | .blockCountExceedsPayload | .missingLinkLayerAddress => .decodingException
  | .noResponse | .incompleteResponse => .timeout
  | .unexpectedResponse | .wrongMessageType => .protocolError

/-- The class id (R461). -/
def FailureClass.id : FailureClass → Nat
  | .decodingException => 1
  | .timeout => 2
  | .protocolError => 3

/-- The cause id: the low byte of the code (R461). -/
def Cause.id : Cause → Nat
  | .bcdInvalidNibble => 0x01
  | .truncatedBuffer => 0x02
  | .unrecognisedDifVif => 0x03
  | .unsupportedEncryptionMode => 0x04
  | .manufacturerSpecificCI => 0x05
  | .unsupportedCI => 0x06
  | .wirelessLengthExceedsBuffer => 0x07
  | .malformedFrame => 0x08
  | .unexpectedByte => 0x09
  | .missingKey => 0x10
  | .wrongKey => 0x11
  | .blockCountExceedsPayload => 0x12
  | .missingLinkLayerAddress => 0x13
  | .noResponse => 0x01
  | .incompleteResponse => 0x02
  | .unexpectedResponse => 0x01
  | .wrongMessageType => 0x02

/-- `(class id << 8) | cause id` (R461). -/
def Cause.code (c : Cause) : Nat := c.failureClass.id * 256 + c.id

/-- The crypto category (R463). -/
def Cause.isCrypto : Cause → Bool
  | .missingKey | .wrongKey | .blockCountExceedsPayload | .missingLinkLayerAddress => true
  | _ => false

end Sys2Proof.Machine
end

