-- ==== Sys2Proof/Machine/Ops.lean ====
section
/-! DEFINITION. The named operations over the state: ending an operation with a result, taking an exception
(60_exceptions.md R460, R490), the key map, the events, the transport, the objects. -/

namespace Sys2Proof.Machine

/-! ## Endings (00_scope.md R9) -/

/-- How an operation ends other than by a result. -/
inductive Ending where
  | raised (c : Cause)
  | refused (r : Refusal)
  | faulted (f : Fault)
  deriving DecidableEq, Repr

/-- An operation's value, or its other ending. -/
abbrev Run (α : Type) := Except Ending α

/-- A decoder's exception is the operation's (R464: passed outward unchanged). -/
def Run.ofDec {α : Type} : Dec α → Run α
  | .ok a => .ok a
  | .error c => .error (.raised c)

/-- The CMD port returns `Result(v)` (R44). -/
def State.respond (v : Value) (s : State) : State := { s with resp := some (.result v) }

/-- Taking an exception: the CMD port returns `(class, cause)`. "Nothing is saved anywhere for a handler: there is no
cause register, no saved cursor, no return address" (R490), and there is no return operation (R491): the state is
the one the failed operation left, and the machine goes on. -/
def State.raise (c : Cause) (s : State) : State := { s with resp := some (.exception c) }

/-- What follows a part of an operation: with a value it goes on; an exception is taken in the state the operation is
in; a refusal or a fault stops. -/
def proceed {α : Type} (r : Run α) (k : α → Out) (s : State) : Out :=
  match r with
  | .ok a => k a
  | .error (.raised c) => .next (s.raise c)
  | .error (.refused x) => .refused x
  | .error (.faulted f) => .fault f

/-- The end of an operation: with a value, the state `k` makes of it. -/
def finish {α : Type} (r : Run α) (k : α → State) (s : State) : Out := proceed r (fun a => .next (k a)) s

/-- The end of an operation that writes no state but the CMD response. -/
def conclude (r : Run Value) (s : State) : Out := finish r (fun v => s.respond v) s

/-! ## Key map (R25; 47_keys_fcb.md R402 to R404) -/

/-- `KEYMAP[raw]`. -/
def KeyMap.get : KeyMap → Bytes → Option Bytes
  | [], _ => none
  | (r, k) :: m, raw => if r = raw then some k else KeyMap.get m raw

/-- `KEYMAP[raw] <- key`: replaces an entry already there, and keeps the addresses rising. -/
def KeyMap.add : KeyMap → Bytes → Bytes → KeyMap
  | [], raw, key => [(raw, key)]
  | (r, k) :: m, raw, key =>
    match cmpBytes raw r with
    | .lt => (raw, key) :: (r, k) :: m
    | .eq => (raw, key) :: m
    | .gt => (r, k) :: KeyMap.add m raw key

/-- Remove the entry `KEYMAP[raw]` if there is one. -/
def KeyMap.del : KeyMap → Bytes → KeyMap
  | [], _ => []
  | (r, k) :: m, raw => if r = raw then m else (r, k) :: KeyMap.del m raw

/-- The addresses are strictly rising from `r` on. -/
def KeyMap.risesFrom : Bytes → KeyMap → Bool
  | _, [] => true
  | r, (r', _) :: m => (cmpBytes r r' == .lt) && KeyMap.risesFrom r' m

/-- The canonical form (log 8): addresses strictly rising in the order of SA.CMP, so no address twice, and every key
has 16 bytes (KEY.ADD refuses any other). -/
def KeyMap.wf (m : KeyMap) : Bool :=
  (match m with
    | [] => true
    | (r, _) :: m' => KeyMap.risesFrom r m') && m.all (fun e => e.2.length == Config.keyLen)

/-! ## Events (60_exceptions.md R480) -/

/-- `emit e`: a session without a listener emits nothing. -/
def State.emit (e : Event) (s : State) : State := if s.listener then { s with evts := s.evts ++ [e] } else s

/-! ## Transport (R40, R70; 45_wired_frame.md R336) -/

/-- `TpWrite(f)` (R8, R70): the whole frame in one call. -/
def State.tpWrite (f : Bytes) (s : State) : State := { s with tpOut := s.tpOut ++ [f] }

/-- TX.FRAME: `TpWrite(f); LASTTX <- f` (R336). -/
def State.transmit (f : Bytes) (s : State) : State := { s.tpWrite f with lastTx := some f }

/-- SCAN.ABORT's effect: `abortReq <- 1`, and nothing when no scan runs (48_scanner.md R438). -/
def Scanner.abort (sc : Scanner) : Scanner := if sc.running then { sc with abortReq := true } else sc

/-- One read of the transport's next byte: the byte or nothing (timeout), what the transport does after it, and
whether a SCAN.ABORT arrived meanwhile or before (R482). -/
def takeByte : List TpEvent → Option Byte × List TpEvent × Bool
  | [] => (none, [], false)
  | .byte b :: es => (some b, es, false)
  | .timeout :: es => (none, es, false)
  | .abort :: es | .abortBetween :: es =>
    let r := takeByte es
    (r.1, r.2.1, true)

/-- `TpReadByte(t)` (R8): takes the byte from the stream. -/
def State.tpReadByte (s : State) : Option Byte × State :=
  match takeByte s.tpIn with
  | (x, es, ab) => (x, { s with tpIn := es, scanner := if ab then s.scanner.abort else s.scanner })

/-- `TpReadExactly(n, t)` (R8): the bytes that arrived; fewer than `n` of them is `Short`. -/
def State.tpReadExactly : Nat → State → Bytes × State
  | 0, s => ([], s)
  | n + 1, s =>
    match s.tpReadByte with
    | (none, s) => ([], s)
    | (some b, s) =>
      match State.tpReadExactly n s with
      | (bs, s) => (b :: bs, s)

/-- What comes after the SCAN.ABORTs that arrive before the next read, and whether there is one (48_scanner.md R438). -/
def takeAborts : List TpEvent → List TpEvent × Bool
  | .abortBetween :: es => ((takeAborts es).1, true)
  | es => (es, false)

/-- The loop of a scan looks at `abortReq`: a SCAN.ABORT that arrived since the last read has set it (R436, R438). -/
def State.lookAtAbort (s : State) : State :=
  match takeAborts s.tpIn with
  | (es, ab) => { s with tpIn := es, scanner := if ab then s.scanner.abort else s.scanner }

/-! ## Link state and scanner (R27, R35) -/

/-- `LINK <- x` (R346). -/
def State.setLink (x : LinkState) (s : State) : State := { s with link := x }

/-- Write of the scanner state. -/
def State.setScanner (sc : Scanner) (s : State) : State := { s with scanner := sc }

/-- `FCB` written. -/
def State.setFcb (f : BitVec 256) (s : State) : State := { s with fcb := f }

/-- `KEYMAP` written. -/
def State.setKeymap (m : KeyMap) (s : State) : State := { s with keymap := m }

/-! ## Objects (10_state.md section 4): each creation appends; the reference is the index -/

/-- A new Bcd object. -/
def State.addBcd (b : Bcd) (s : State) : State := { s with bcds := s.bcds ++ [b] }

/-- A new SecondaryAddress object. -/
def State.addAddr (a : SecondaryAddress) (s : State) : State := { s with addrs := s.addrs ++ [a] }

/-- A new DataRecord object. -/
def State.addRec (r : DataRecord) (s : State) : State := { s with recs := s.recs ++ [r] }

/-- A new VDS object. -/
def State.addVds (v : Vds) (s : State) : State := { s with vdss := s.vdss ++ [v] }

/-- VDS object `n` written. -/
def State.setVds (n : Nat) (v : Vds) (s : State) : State := { s with vdss := s.vdss.set n v }

/-- A new wireless message. -/
def State.addMsg (m : WlMessage) (s : State) : State := { s with msgs := s.msgs ++ [m] }

/-- Wireless message `n` written. -/
def State.setMsg (n : Nat) (m : WlMessage) (s : State) : State := { s with msgs := s.msgs.set n m }

/-- The next free value's number is drawn (log 13). -/
def State.drawFree (s : State) : State := { s with free := s.free + 1 }

/-! ## Session start (47_keys_fcb.md R400, 70_reset_and_hazards.md R520) -/

/-- SES.OPEN: `FCB` all 1, `KEYMAP` empty, `LASTTX` None, `LINK` Idle, no scan running, no objects. It sends nothing,
drains nothing, and changes no parameter and no listener. -/
def State.openSession (kind : SessionKind) (port : Nat) (s : State) : State :=
  { s with
    kind := kind, port := port, fcb := BitVec.allOnes 256, keymap := [], lastTx := none, link := .idle,
    scanner := Scanner.init, bcds := [], addrs := [], recs := [], vdss := [], msgs := [] }

end Sys2Proof.Machine
end

