-- ==== Sys2Proof/Machine/Operands.lean ====
section
/-! DEFINITION. Operand forms: what a reference to an object stands for (log 16), the window of a byte buffer, and the
conditions on the session an operation runs in (10_state.md R20, R27, log 18). -/

namespace Sys2Proof.Machine

/-- The object a table holds at a reference. An object that no operation has created does not exist (10_state.md R47), so
an operand that names one has no meaning (00_scope.md R9, (3)): the fault `noSuchObject`. -/
def objAt {α : Type} (l : List α) (n : Nat) : Run α :=
  match l[n]? with
  | some a => .ok a
  | none => .error (.faulted .noSuchObject)

/-- The object an optional field holds, for an operand that is that object; a field that is `None` (R31), or a value of
another type (R30), holds none: the fault `noSuchObject`. -/
def present {α : Type} : Option α → Run α
  | some a => .ok a
  | none => .error (.faulted .noSuchObject)

/-- A VDS whose fields may be read: "only when `phase = Decoded`. In phase `Failed` no field is exposed" (R31). -/
def decodedVds (s : State) (n : Nat) : Run Vds := do
  let v ← objAt s.vdss n
  if v.phase = .decoded then .ok v else .error (.faulted .noSuchObject)

/-- A byte of two decimal digits, made of the nibbles of `b`. -/
def decimalByte (b : Byte) : Byte := nibbles (hi b % 10) (lo b % 10)

/-- The same for the last byte of a Bcd, whose high nibble may be the sentinel `0xF` (40_bcd.md R141). -/
def lastDecimalByte (b : Byte) : Byte := if hi b = 15 then nibbles 15 (lo b % 10) else decimalByte b

/-- The address in link-layer order that 8 bytes make, bits 7..0 of `x` the first, when the nibbles of its device id are
brought into decimal range (30_encoding.md R103; 41_secondary_address.md R166). -/
def llAddressOf (x : BitVec 64) : SecondaryAddress :=
  let b (k : Nat) : Byte := x.extractLsb' (8 * k) 8
  let w := (b 0).toNat + 256 * (b 1).toNat
  let id := [decimalByte (b 2), decimalByte (b 3), decimalByte (b 4), lastDecimalByte (b 5)]
  { manufacturerId := [charOf (bitsOf w 10 5 + 64), charOf (bitsOf w 5 5 + 64), charOf (bitsOf w 0 5 + 64)]
    deviceId :=
      { bytes := id, negative := bcdNegative id
        digits := (id.flatMap (fun d => [lo d, hi d])).take (if bcdNegative id then 7 else 8) }
    version := b 6
    deviceType := b 7
    raw := [b 0, b 1] ++ id ++ [b 6, b 7] }

/-- The address of message `n` while no rule has written it: `any value` (93 U16, log 35: a free value). -/
def unwrittenAddress (n : Nat) : SecondaryAddress := llAddressOf (Config.freeAddress n)

/-- The address a reference stands for. -/
def saAt (s : State) : SaRef → Run SecondaryAddress
  | .obj n => objAt s.addrs n
  | .ofVds v => do
    let v ← decodedVds s v
    present v.secondaryAddress
  | .ofMsg n => do
    let m ← objAt s.msgs n
    .ok (m.secondaryAddress.getD (unwrittenAddress n))
  | .found k => objAt s.scanner.found k

/-- The record a reference stands for. -/
def recAt (s : State) : RecRef → Run DataRecord
  | .obj n => objAt s.recs n
  | .ofVds v k => do
    let v ← decodedVds s v
    objAt v.dataRecords k

/-- The Bcd value of a record, if it has one. -/
def bcdOf : DataValue → Option Bcd
  | .bcd b => some b
  | _ => none

/-- The Bcd a reference stands for. -/
def bcdAt (s : State) : BcdRef → Run Bcd
  | .obj n => objAt s.bcds n
  | .deviceId a => do
    let a ← saAt s a
    .ok a.deviceId
  | .dataValue r => do
    let r ← recAt s r
    present (bcdOf r.dataValue)

/-- The raw address KEY.GET looks up: an address object's, or the 8 bytes given (47_keys_fcb.md R404). -/
def rawAt (s : State) : AddrKey → Run Bytes
  | .raw r => .ok r
  | .sa a => do
    let a ← saAt s a
    .ok a.raw

/-- The optional link-layer address of VDS.NEW (44_vds.md R280): given as the optional `secondaryAddress` of a decoded VDS
(R31), it is `None` where that is. -/
def optSaAt (s : State) : Option SaRef → Run (Option SecondaryAddress)
  | none => .ok none
  | some (.ofVds n) => do
    let v ← decodedVds s n
    .ok v.secondaryAddress
  | some a => do
    let a ← saAt s a
    .ok (some a)

/-- A TP port is there: the session is wired (R20, R40). -/
def needTransport (s : State) : Run Unit :=
  if s.kind = .wired then .ok () else .error (.faulted .noTransport)

/-- A transmit, a receive or a link operation may start: there is a transport and `LINK = Idle` (R27, 45_wired_frame.md
R320, R346; log 22). -/
def needLink (s : State) : Run Unit := do
  needTransport s
  if s.link = .idle then .ok () else .error (.refused .linkBusy)

/-- The name of an address's device type, looked up in DEVTYPE_TAB (R28); none if the table has none. -/
def deviceTypeName (p : Params) (a : SecondaryAddress) : Option (List Char) :=
  (p.devtypeTab.find? (fun e => e.1 == a.deviceType)).map (fun e => e.2)

/-- The unit of a VIFTAB entry: by name, or by DLMS unit id, where an unknown id gives RESERVED (30_encoding.md R120). -/
def unitOf (p : Params) : UnitRef → DlmsUnit
  | .unit u => u
  | .dlmsId id => ((p.dlmsUnitTab.find? (fun e => e.1 == id)).map (fun e => e.2)).getD .reserved

end Sys2Proof.Machine
end

