-- ==== Sys2Proof/Machine/Aes.lean ====
section
/-! DEFINITION. The AES unit (43_aes_cbc.md): AES-128 in CBC mode with an explicit IV and no padding. A block and a
round key are byte strings of 16 bytes; the state's byte `4c + r` is row `r` of column `c` (R261). -/

namespace Sys2Proof.Machine

/-! ## Tables (R262, R263) -/

/-- The S-box (R262). Row = high nibble, column = low nibble. -/
def sboxRows : List (List Byte) :=
  [[0x63, 0x7c, 0x77, 0x7b, 0xf2, 0x6b, 0x6f, 0xc5, 0x30, 0x01, 0x67, 0x2b, 0xfe, 0xd7, 0xab, 0x76],
   [0xca, 0x82, 0xc9, 0x7d, 0xfa, 0x59, 0x47, 0xf0, 0xad, 0xd4, 0xa2, 0xaf, 0x9c, 0xa4, 0x72, 0xc0],
   [0xb7, 0xfd, 0x93, 0x26, 0x36, 0x3f, 0xf7, 0xcc, 0x34, 0xa5, 0xe5, 0xf1, 0x71, 0xd8, 0x31, 0x15],
   [0x04, 0xc7, 0x23, 0xc3, 0x18, 0x96, 0x05, 0x9a, 0x07, 0x12, 0x80, 0xe2, 0xeb, 0x27, 0xb2, 0x75],
   [0x09, 0x83, 0x2c, 0x1a, 0x1b, 0x6e, 0x5a, 0xa0, 0x52, 0x3b, 0xd6, 0xb3, 0x29, 0xe3, 0x2f, 0x84],
   [0x53, 0xd1, 0x00, 0xed, 0x20, 0xfc, 0xb1, 0x5b, 0x6a, 0xcb, 0xbe, 0x39, 0x4a, 0x4c, 0x58, 0xcf],
   [0xd0, 0xef, 0xaa, 0xfb, 0x43, 0x4d, 0x33, 0x85, 0x45, 0xf9, 0x02, 0x7f, 0x50, 0x3c, 0x9f, 0xa8],
   [0x51, 0xa3, 0x40, 0x8f, 0x92, 0x9d, 0x38, 0xf5, 0xbc, 0xb6, 0xda, 0x21, 0x10, 0xff, 0xf3, 0xd2]] ++
  [[0xcd, 0x0c, 0x13, 0xec, 0x5f, 0x97, 0x44, 0x17, 0xc4, 0xa7, 0x7e, 0x3d, 0x64, 0x5d, 0x19, 0x73],
   [0x60, 0x81, 0x4f, 0xdc, 0x22, 0x2a, 0x90, 0x88, 0x46, 0xee, 0xb8, 0x14, 0xde, 0x5e, 0x0b, 0xdb],
   [0xe0, 0x32, 0x3a, 0x0a, 0x49, 0x06, 0x24, 0x5c, 0xc2, 0xd3, 0xac, 0x62, 0x91, 0x95, 0xe4, 0x79],
   [0xe7, 0xc8, 0x37, 0x6d, 0x8d, 0xd5, 0x4e, 0xa9, 0x6c, 0x56, 0xf4, 0xea, 0x65, 0x7a, 0xae, 0x08],
   [0xba, 0x78, 0x25, 0x2e, 0x1c, 0xa6, 0xb4, 0xc6, 0xe8, 0xdd, 0x74, 0x1f, 0x4b, 0xbd, 0x8b, 0x8a],
   [0x70, 0x3e, 0xb5, 0x66, 0x48, 0x03, 0xf6, 0x0e, 0x61, 0x35, 0x57, 0xb9, 0x86, 0xc1, 0x1d, 0x9e],
   [0xe1, 0xf8, 0x98, 0x11, 0x69, 0xd9, 0x8e, 0x94, 0x9b, 0x1e, 0x87, 0xe9, 0xce, 0x55, 0x28, 0xdf],
   [0x8c, 0xa1, 0x89, 0x0d, 0xbf, 0xe6, 0x42, 0x68, 0x41, 0x99, 0x2d, 0x0f, 0xb0, 0x54, 0xbb, 0x16]]

/-- The inverse S-box (R263). Row = high nibble, column = low nibble. -/
def invSboxRows : List (List Byte) :=
  [[0x52, 0x09, 0x6a, 0xd5, 0x30, 0x36, 0xa5, 0x38, 0xbf, 0x40, 0xa3, 0x9e, 0x81, 0xf3, 0xd7, 0xfb],
   [0x7c, 0xe3, 0x39, 0x82, 0x9b, 0x2f, 0xff, 0x87, 0x34, 0x8e, 0x43, 0x44, 0xc4, 0xde, 0xe9, 0xcb],
   [0x54, 0x7b, 0x94, 0x32, 0xa6, 0xc2, 0x23, 0x3d, 0xee, 0x4c, 0x95, 0x0b, 0x42, 0xfa, 0xc3, 0x4e],
   [0x08, 0x2e, 0xa1, 0x66, 0x28, 0xd9, 0x24, 0xb2, 0x76, 0x5b, 0xa2, 0x49, 0x6d, 0x8b, 0xd1, 0x25],
   [0x72, 0xf8, 0xf6, 0x64, 0x86, 0x68, 0x98, 0x16, 0xd4, 0xa4, 0x5c, 0xcc, 0x5d, 0x65, 0xb6, 0x92],
   [0x6c, 0x70, 0x48, 0x50, 0xfd, 0xed, 0xb9, 0xda, 0x5e, 0x15, 0x46, 0x57, 0xa7, 0x8d, 0x9d, 0x84],
   [0x90, 0xd8, 0xab, 0x00, 0x8c, 0xbc, 0xd3, 0x0a, 0xf7, 0xe4, 0x58, 0x05, 0xb8, 0xb3, 0x45, 0x06],
   [0xd0, 0x2c, 0x1e, 0x8f, 0xca, 0x3f, 0x0f, 0x02, 0xc1, 0xaf, 0xbd, 0x03, 0x01, 0x13, 0x8a, 0x6b]] ++
  [[0x3a, 0x91, 0x11, 0x41, 0x4f, 0x67, 0xdc, 0xea, 0x97, 0xf2, 0xcf, 0xce, 0xf0, 0xb4, 0xe6, 0x73],
   [0x96, 0xac, 0x74, 0x22, 0xe7, 0xad, 0x35, 0x85, 0xe2, 0xf9, 0x37, 0xe8, 0x1c, 0x75, 0xdf, 0x6e],
   [0x47, 0xf1, 0x1a, 0x71, 0x1d, 0x29, 0xc5, 0x89, 0x6f, 0xb7, 0x62, 0x0e, 0xaa, 0x18, 0xbe, 0x1b],
   [0xfc, 0x56, 0x3e, 0x4b, 0xc6, 0xd2, 0x79, 0x20, 0x9a, 0xdb, 0xc0, 0xfe, 0x78, 0xcd, 0x5a, 0xf4],
   [0x1f, 0xdd, 0xa8, 0x33, 0x88, 0x07, 0xc7, 0x31, 0xb1, 0x12, 0x10, 0x59, 0x27, 0x80, 0xec, 0x5f],
   [0x60, 0x51, 0x7f, 0xa9, 0x19, 0xb5, 0x4a, 0x0d, 0x2d, 0xe5, 0x7a, 0x9f, 0x93, 0xc9, 0x9c, 0xef],
   [0xa0, 0xe0, 0x3b, 0x4d, 0xae, 0x2a, 0xf5, 0xb0, 0xc8, 0xeb, 0xbb, 0x3c, 0x83, 0x53, 0x99, 0x61],
   [0x17, 0x2b, 0x04, 0x7e, 0xba, 0x77, 0xd6, 0x26, 0xe1, 0x69, 0x14, 0x63, 0x55, 0x21, 0x0c, 0x7d]]

/-- The entry of a table of 16 rows of 16 bytes at `a`. -/
def lookup (rows : List (List Byte)) (a : Byte) : Byte := (rows.getD (hi a) []).getD (lo a) 0#8

/-- `SBOX[a]` (R262). -/
def sbox (a : Byte) : Byte := lookup sboxRows a

/-- `INVSBOX[a]` (R263). -/
def invSbox (a : Byte) : Byte := lookup invSboxRows a

/-! ## Field arithmetic (R260) -/

/-- `xtime(a)`: the product by 2 in GF(2^8) modulo `0x11B`. -/
def xtime (a : Byte) : Byte := if a.msb then (a <<< 1) ^^^ 0x1B#8 else a <<< 1

/-- `a • 3`. -/
def mul3 (a : Byte) : Byte := xtime a ^^^ a
/-- `a • 9`. -/
def mul9 (a : Byte) : Byte := xtime (xtime (xtime a)) ^^^ a
/-- `a • 11`. -/
def mul11 (a : Byte) : Byte := xtime (xtime (xtime a)) ^^^ xtime a ^^^ a
/-- `a • 13`. -/
def mul13 (a : Byte) : Byte := xtime (xtime (xtime a)) ^^^ xtime (xtime a) ^^^ a
/-- `a • 14`. -/
def mul14 (a : Byte) : Byte := xtime (xtime (xtime a)) ^^^ xtime (xtime a) ^^^ xtime a

/-! ## Transformations (R265) -/

/-- Bytewise exclusive or; AddRoundKey when one side is a round key. -/
def xorBytes (a b : Bytes) : Bytes := List.zipWith (· ^^^ ·) a b

/-- SubBytes. -/
def subBytes (s : Bytes) : Bytes := s.map sbox

/-- InvSubBytes. -/
def invSubBytes (s : Bytes) : Bytes := s.map invSbox

/-- ShiftRows: `s'[4c + r] = s[4((c + r) mod 4) + r]`. -/
def shiftRows (s : Bytes) : Bytes :=
  [byteAt s 0, byteAt s 5, byteAt s 10, byteAt s 15, byteAt s 4, byteAt s 9, byteAt s 14, byteAt s 3,
   byteAt s 8, byteAt s 13, byteAt s 2, byteAt s 7, byteAt s 12, byteAt s 1, byteAt s 6, byteAt s 11]

/-- InvShiftRows: `s'[4c + r] = s[4((c - r) mod 4) + r]`. -/
def invShiftRows (s : Bytes) : Bytes :=
  [byteAt s 0, byteAt s 13, byteAt s 10, byteAt s 7, byteAt s 4, byteAt s 1, byteAt s 14, byteAt s 11,
   byteAt s 8, byteAt s 5, byteAt s 2, byteAt s 15, byteAt s 12, byteAt s 9, byteAt s 6, byteAt s 3]

/-- One column of MixColumns. -/
def mixColumn (a0 a1 a2 a3 : Byte) : Bytes :=
  [xtime a0 ^^^ mul3 a1 ^^^ a2 ^^^ a3, a0 ^^^ xtime a1 ^^^ mul3 a2 ^^^ a3,
   a0 ^^^ a1 ^^^ xtime a2 ^^^ mul3 a3, mul3 a0 ^^^ a1 ^^^ a2 ^^^ xtime a3]

/-- One column of InvMixColumns. -/
def invMixColumn (a0 a1 a2 a3 : Byte) : Bytes :=
  [mul14 a0 ^^^ mul11 a1 ^^^ mul13 a2 ^^^ mul9 a3, mul9 a0 ^^^ mul14 a1 ^^^ mul11 a2 ^^^ mul13 a3,
   mul13 a0 ^^^ mul9 a1 ^^^ mul14 a2 ^^^ mul11 a3, mul11 a0 ^^^ mul13 a1 ^^^ mul9 a2 ^^^ mul14 a3]

/-- MixColumns: column by column. -/
def mixColumns : Bytes → Bytes
  | a0 :: a1 :: a2 :: a3 :: s => mixColumn a0 a1 a2 a3 ++ mixColumns s
  | _ => []

/-- InvMixColumns: column by column. -/
def invMixColumns : Bytes → Bytes
  | a0 :: a1 :: a2 :: a3 :: s => invMixColumn a0 a1 a2 a3 ++ invMixColumns s
  | _ => []

/-! ## Key expansion (R264) -/

/-- The four words of the next round key from the words of the one before: RotWord, SubWord and `rcon` on the first,
then a chain of exclusive ors. -/
def nextRoundKey (k : Bytes) (rcon : Byte) : Bytes :=
  let t := [sbox (byteAt k 13) ^^^ rcon, sbox (byteAt k 14), sbox (byteAt k 15), sbox (byteAt k 12)]
  let w0 := xorBytes (k.take 4) t
  let w1 := xorBytes ((k.drop 4).take 4) w0
  let w2 := xorBytes ((k.drop 8).take 4) w1
  let w3 := xorBytes ((k.drop 12).take 4) w2
  w0 ++ w1 ++ w2 ++ w3

/-- `n` round keys that follow `k`. -/
def roundKeysAfter : Nat → Bytes → Byte → List Bytes
  | 0, _, _ => []
  | n + 1, k, rcon => nextRoundKey k rcon :: roundKeysAfter n (nextRoundKey k rcon) (xtime rcon)

/-- The round keys `rk[1]` to `rk[10]`; `rk[0]` is the key itself. -/
def roundKeys (key : Bytes) : List Bytes := roundKeysAfter 10 key 1#8

/-! ## Block functions (R266, R267) -/

/-- The rounds of Cipher: every round but the last mixes columns. -/
def cipherRounds : List Bytes → Bytes → Bytes
  | [], s => s
  | [k], s => xorBytes (shiftRows (subBytes s)) k
  | k :: k' :: ks, s => cipherRounds (k' :: ks) (xorBytes (mixColumns (shiftRows (subBytes s))) k)

/-- `Cipher(key, block)` (R266). -/
def cipher (key block : Bytes) : Bytes := cipherRounds (roundKeys key) (xorBytes block key)

/-- The rounds of InvCipher, in the reverse order of `cipherRounds`. -/
def invCipherRounds : List Bytes → Bytes → Bytes
  | [], s => s
  | [k], s => invSubBytes (invShiftRows (xorBytes s k))
  | k :: k' :: ks, s => invSubBytes (invShiftRows (invMixColumns (xorBytes (invCipherRounds (k' :: ks) s) k)))

/-- `InvCipher(key, block)` (R267). -/
def invCipher (key block : Bytes) : Bytes := xorBytes (invCipherRounds (roundKeys key) block) key

/-! ## Chaining (R256, R257) -/

/-- `CbcDecrypt(key, iv, c)` of `n` blocks. -/
def cbcDecrypt (key : Bytes) : Nat → Bytes → Bytes → Bytes
  | 0, _, _ => []
  | n + 1, prev, c => xorBytes (invCipher key (c.take 16)) prev ++ cbcDecrypt key n (c.take 16) (c.drop 16)

/-- `CbcEncrypt(key, iv, m)` of `n` blocks. -/
def cbcEncrypt (key : Bytes) : Nat → Bytes → Bytes → Bytes
  | 0, _, _ => []
  | n + 1, prev, m =>
    let c := cipher key (xorBytes (m.take 16) prev)
    c ++ cbcEncrypt key n c (m.drop 16)

/-! ## Operations -/

/-- AES.DECRYPT with a key and an IV of 16 bytes (R252): over a window, the block count is checked "before any cipher work",
then the cipher runs over the first `16 * blockCount` bytes. A triple that is no window raises what 20_memory.md R65 says
first of all (log 20). -/
def decryptWindow (key iv buf : Bytes) (p avail blockCount : Nat) : Dec Bytes := do
  let w ← window buf p avail
  if avail < 16 * blockCount then .error .blockCountExceedsPayload else .ok (cbcDecrypt key blockCount iv w)

/-- AES.DECRYPT (R251, R252). -/
def aesDecryptOp (key iv buf : Bytes) (p avail blockCount : Nat) : Run Bytes :=
  if key.length ≠ Config.keyLen ∨ iv.length ≠ Config.blockLen then .error (.refused .badKeyOrIvLength)
  else Run.ofDec (decryptWindow key iv buf p avail blockCount)

/-- AES.ENCRYPT (R253). Where both refusals apply, that of R251 comes first: the spec gives no order (log 32: DESIGN
CHOICE). -/
def aesEncryptOp (key iv m : Bytes) : Run Bytes :=
  if key.length ≠ Config.keyLen ∨ iv.length ≠ Config.blockLen then .error (.refused .badKeyOrIvLength)
  else if m.length % 16 ≠ 0 then .error (.refused .plaintextNotBlockMultiple)
  else .ok (cbcEncrypt key (m.length / 16) iv m)

/-- AES.DECRYPT (R252). -/
def execAesDecrypt (key iv buf : Bytes) (p avail blockCount : Nat) (s : State) : Out :=
  conclude (do let m ← aesDecryptOp key iv buf p avail blockCount; .ok (.bytes m)) s

/-- AES.ENCRYPT (R253). -/
def execAesEncrypt (key iv m : Bytes) (s : State) : Out :=
  conclude (do let c ← aesEncryptOp key iv m; .ok (.bytes c)) s

end Sys2Proof.Machine
end

