-- ==== Sys2Proof/Machine/Bcd.lean ====
section
/-! DEFINITION. The BCD unit (40_bcd.md): packed-decimal decode and encode. Arithmetic is exact (R146); the only
widths are the final range checks of BCD.INT and BCD.LONG. -/

namespace Sys2Proof.Machine

/-- The digits of BCD.DEC, least significant first (R141): in the last byte a high nibble `0xF` is the sentinel and no
digit; every other nibble above 9 raises BcdInvalidNibble. -/
def bcdDigits : Bytes → Dec (List Nat)
  | [] => .ok []
  | [b] =>
    if lo b > 9 then .error .bcdInvalidNibble
    else if hi b = 15 then .ok [lo b]
    else if hi b > 9 then .error .bcdInvalidNibble
    else .ok [lo b, hi b]
  | b :: b' :: bs =>
    if lo b > 9 ∨ hi b > 9 then .error .bcdInvalidNibble
    else do
      let ds ← bcdDigits (b' :: bs)
      .ok (lo b :: hi b :: ds)

/-- BCD.DEC of at least one byte (R141). -/
def bcdDecode (b : Bytes) : Dec Bcd := do
  let ds ← bcdDigits b
  .ok { bytes := b, negative := bcdNegative b, digits := ds }

/-- BCD.DEC with its refusal for no byte at all (R141, 93 U4). -/
def bcdDecodeOp (b : Bytes) : Run Bcd :=
  if b.isEmpty then .error (.refused .emptyBcd) else Run.ofDec (bcdDecode b)

/-- `Σ_j digits[j] * 10^j` (R143). -/
def digitsValue : List Nat → Nat
  | [] => 0
  | d :: ds => d + 10 * digitsValue ds

/-- The exact value, with its sign (R143). -/
def bcdValue (x : Bcd) : Int := if x.negative then -(digitsValue x.digits : Int) else digitsValue x.digits

/-- BCD.STR: `-` if negative, then every digit, most significant first (R142). -/
def bcdString (x : Bcd) : List Char :=
  (if x.negative then ['-'] else []) ++ x.digits.reverse.map (fun d => charOf (48 + d))

/-- The bounds of a two's complement integer of `w` bits. -/
def fitsSigned (w : Nat) (v : Int) : Bool := decide (-2 ^ (w - 1) ≤ v ∧ v ≤ 2 ^ (w - 1) - 1)

/-- BCD.INT (R143). -/
def bcdInt (x : Bcd) : Run (BitVec 32) :=
  if fitsSigned 32 (bcdValue x) then .ok (BitVec.ofInt 32 (bcdValue x)) else .error (.refused .intOverflow)

/-- BCD.LONG (R144). -/
def bcdLong (x : Bcd) : Run (BitVec 64) :=
  if fitsSigned 64 (bcdValue x) then .ok (BitVec.ofInt 64 (bcdValue x)) else .error (.refused .longOverflow)

/-- `n` bytes of two decimal digits each, least significant first (R145). -/
def packDigits : Nat → Nat → Bytes
  | 0, _ => []
  | n + 1, v => nibbles (v / 10 % 10) (v % 10) :: packDigits n (v / 100)

/-- The same with the sentinel `0xF` in the last high nibble (R145). -/
def packNegative : Nat → Nat → Bytes
  | 0, _ => []
  | 1, m => [nibbles 15 (m % 10)]
  | n + 2, m => nibbles (m / 10 % 10) (m % 10) :: packNegative (n + 1) (m / 100)

/-- BCD.ENC (R145); no byte at all is no F-BCD (R111, log 23). -/
def bcdEncode (v : Int) (n : Nat) : Run Bytes :=
  if n = 0 then .error (.refused .emptyBcd)
  else if 0 ≤ v then
    if v.toNat ≥ 10 ^ (2 * n) then .error (.refused .bcdEncodeRange) else .ok (packDigits n v.toNat)
  else
    if (-v).toNat ≥ 10 ^ (2 * n - 1) then .error (.refused .bcdEncodeRange) else .ok (packNegative n (-v).toNat)

/-- BCD.DEC (R141): makes a Bcd object. -/
def execBcdDec (b : Bytes) (s : State) : Out :=
  finish (bcdDecodeOp b) (fun x => (s.addBcd x).respond (.bcd s.bcds.length)) s

/-- BCD.STR (R142). -/
def execBcdStr (x : BcdRef) (s : State) : Out :=
  conclude (do let x ← bcdAt s x; .ok (.text (bcdString x))) s

/-- BCD.INT (R143). -/
def execBcdInt (x : BcdRef) (s : State) : Out :=
  conclude (do let x ← bcdAt s x; let v ← bcdInt x; .ok (.int32 v)) s

/-- BCD.LONG (R144). -/
def execBcdLong (x : BcdRef) (s : State) : Out :=
  conclude (do let x ← bcdAt s x; let v ← bcdLong x; .ok (.int64 v)) s

/-- BCD.ENC (R145). -/
def execBcdEnc (v : Int) (n : Nat) (s : State) : Out :=
  conclude (do let b ← bcdEncode v n; .ok (.bytes b)) s

end Sys2Proof.Machine
end

