-- ==== Sys2Proof/Machine/Address.lean ====
section
/-! DEFINITION. The SA unit (41_secondary_address.md): manufacturer id and secondary address. -/

namespace Sys2Proof.Machine

/-- `w = m[0] | (m[1] << 8)` (30_encoding.md R103). -/
def manWord (m0 m1 : Byte) : Nat := m0.toNat + 256 * m1.toNat

/-- The letter groups `w[14:10]`, `w[9:5]`, `w[4:0]` (R103); bit 15 is ignored. -/
def manGroups (m0 m1 : Byte) : Nat × Nat × Nat :=
  (bitsOf (manWord m0 m1) 10 5, bitsOf (manWord m0 m1) 5 5, bitsOf (manWord m0 m1) 0 5)

/-- MAN.DEC (R162): total. -/
def manDecode (m0 m1 : Byte) : List Char :=
  match manGroups m0 m1 with
  | (g0, g1, g2) => [charOf (g0 + 64), charOf (g1 + 64), charOf (g2 + 64)]

/-- A character in `A..Z`. -/
def isUpperAZ (c : Char) : Bool := decide (65 ≤ c.toNat ∧ c.toNat ≤ 90)

/-- MAN.ENC (R163). -/
def manEncode (str : List Char) : Run Bytes :=
  match str with
  | [c0, c1, c2] =>
    if isUpperAZ c0 && isUpperAZ c1 && isUpperAZ c2 then
      let w := (c0.toNat - 64) * 1024 + (c1.toNat - 64) * 32 + (c2.toNat - 64)
      .ok [BitVec.ofNat 8 w, BitVec.ofNat 8 (w / 256)]
    else .error (.refused .manufacturerIdNotUppercase)
  | _ => .ok [0#8, 0#8]

/-- SA.LH of 8 bytes: device id, manufacturer id, version, type (R165). -/
def saFromLh (raw : Bytes) : Dec SecondaryAddress := do
  let d ← bcdDecode (raw.take 4)
  .ok { manufacturerId := manDecode (byteAt raw 4) (byteAt raw 5), deviceId := d, version := byteAt raw 6,
        deviceType := byteAt raw 7, raw := raw }

/-- SA.LL of 8 bytes: manufacturer id, device id, version, type (R166). -/
def saFromLl (raw : Bytes) : Dec SecondaryAddress := do
  let d ← bcdDecode ((raw.drop 2).take 4)
  .ok { manufacturerId := manDecode (byteAt raw 0) (byteAt raw 1), deviceId := d, version := byteAt raw 6,
        deviceType := byteAt raw 7, raw := raw }

/-- SA.LH at the cursor: the address and what is left of the window (R165, R66). -/
def readSaLh (w : Bytes) : Dec (SecondaryAddress × Bytes) := do
  let (raw, w) ← memRead Config.saLen w
  let a ← saFromLh raw
  .ok (a, w)

/-- SA.LL at the cursor. -/
def readSaLl (w : Bytes) : Dec (SecondaryAddress × Bytes) := do
  let (raw, w) ← memRead Config.saLen w
  let a ← saFromLl raw
  .ok (a, w)

/-- SA.LH `buf, p`: bound `len(buf)`. -/
def saLhAt (buf : Bytes) (p : Nat) : Dec SecondaryAddress := do
  let (a, _) ← readSaLh (buf.drop p)
  .ok a

/-- SA.LL `buf, p`: bound `len(buf)`. -/
def saLlAt (buf : Bytes) (p : Nat) : Dec SecondaryAddress := do
  let (a, _) ← readSaLl (buf.drop p)
  .ok a

/-- SA.BUILD (R172). -/
def saBuildOp (man : List Char) (deviceId : Int) (version deviceType : Byte) (order : SaOrder) :
    Run SecondaryAddress := do
  let id ← bcdEncode deviceId 4
  let m ← manEncode man
  match order with
  | .lh => Run.ofDec (saLhAt (id ++ m ++ [version, deviceType]) 0)
  | .ll => Run.ofDec (saLlAt (m ++ id ++ [version, deviceType]) 0)

/-- SA.EQ: equality of all 8 raw bytes (R176). -/
def saEq (x y : SecondaryAddress) : Bool := x.raw == y.raw

/-- SA.CMP: -1, 0 or +1 by lexicographic order of the raw bytes (R177). -/
def saCmp (x y : SecondaryAddress) : Int :=
  match cmpBytes x.raw y.raw with
  | .lt => -1
  | .eq => 0
  | .gt => 1

/-- An operation that makes a SecondaryAddress object. -/
def concludeAddr (r : Run SecondaryAddress) (s : State) : Out :=
  finish r (fun a => (s.addAddr a).respond (.address s.addrs.length)) s

/-- MAN.DEC (R162). -/
def execManDec (m0 m1 : Byte) (s : State) : Out := .next (s.respond (.text (manDecode m0 m1)))

/-- MAN.ENC (R163). -/
def execManEnc (str : List Char) (s : State) : Out :=
  conclude (do let b ← manEncode str; .ok (.bytes b)) s

/-- SA.LH (R165). -/
def execSaLh (buf : Bytes) (p : Nat) (s : State) : Out := concludeAddr (Run.ofDec (saLhAt buf p)) s

/-- SA.LL (R166). -/
def execSaLl (buf : Bytes) (p : Nat) (s : State) : Out := concludeAddr (Run.ofDec (saLlAt buf p)) s

/-- SA.RAW (R170). -/
def execSaRaw (x : SaRef) (s : State) : Out :=
  conclude (do let a ← saAt s x; .ok (.bytes a.raw)) s

/-- SA.EQ (R176). -/
def execSaEq (x y : SaRef) (s : State) : Out :=
  conclude (do let a ← saAt s x; let b ← saAt s y; .ok (.bit (saEq a b))) s

/-- SA.CMP (R177). -/
def execSaCmp (x y : SaRef) (s : State) : Out :=
  conclude (do let a ← saAt s x; let b ← saAt s y; .ok (.order (saCmp a b))) s

/-- SA.BUILD (R172). -/
def execSaBuild (man : List Char) (deviceId : Int) (version deviceType : Byte) (order : SaOrder) (s : State) : Out :=
  concludeAddr (saBuildOp man deviceId version deviceType order) s

end Sys2Proof.Machine
end

