-- ==== Sys2Proof/Machine/Record.lean ====
section
/-! DEFINITION. The DR unit (42_data_record.md): one data record, DIB then VIB then data field, and its scaled value.
The cursor is what is left of the window (10_state.md R22). -/

namespace Sys2Proof.Machine

/-- The function field of a number `d[5:4]` (R193). -/
def functionFieldOf (n : Nat) : FunctionField :=
  match n with
  | 0 => .instVal
  | 1 => .maxVal
  | 2 => .minVal
  | _ => .errorVal

/-- `Σ_j e_j[hi:k] << (step * j)` over the DIFE bytes: the field of `w` bits from bit `k` (R193). -/
def difeSum (k w step : Nat) : Bytes → Nat
  | [] => 0
  | e :: es => bitsOf e.toNat k w + 2 ^ step * difeSum k w step es

/-- The fields of a DIB (R193, 30_encoding.md R106). -/
def dibFields (dib : Bytes) : DibFields :=
  let d := (byteAt dib 0).toNat
  { dib := dib
    code := bitsOf d 0 4
    functionField := functionFieldOf (bitsOf d 4 2)
    storageNumber := bitsOf d 6 1 + 2 * difeSum 0 4 4 dib.tail
    tariff := difeSum 4 2 2 dib.tail
    subunit := difeSum 6 1 1 dib.tail }

/-- VIFTAB of the whole VIB; UnrecognisedDifVif if it has no entry (R195). -/
def vifLookup (p : Params) (vib : Bytes) : Dec VifEntry :=
  match p.viftab.find? (fun e => e.1 == vib) with
  | some e => .ok e.2
  | none => .error .unrecognisedDifVif

/-- The value of a signed integer field of `s`, least significant byte first (R198). -/
def longValue (s : Bytes) : BitVec 64 := BitVec.ofInt 64 (sext (8 * s.length) (leNat s))

/-- A binary64 NaN whose sign and fraction are free (93 U6, log 14): the fraction is made non-zero, so it is a NaN
whatever the free value is. -/
def freeNaN (b : BitVec 32) : BitVec 64 :=
  let x := Config.freeNaN b
  let frac := if x.toNat % 2 ^ 52 = 0 then 1 else x.toNat % 2 ^ 52
  BitVec.ofNat 64 ((if x.msb then 2 ^ 63 else 0) + 2047 * 2 ^ 52 + frac)

/-- The binary64 bit pattern of the value of a binary32 bit pattern, exactly (R199). Sign `[31]`, exponent `[30:23]`,
fraction `[22:0]`; a subnormal `f * 2^-149` is normalised by its highest set bit. -/
def widenFloat (b : BitVec 32) : BitVec 64 :=
  let sign := if b.msb then 2 ^ 63 else 0
  let e := bitsOf b.toNat 23 8
  let f := bitsOf b.toNat 0 23
  if e = 255 then
    if f = 0 then BitVec.ofNat 64 (sign + 2047 * 2 ^ 52) else freeNaN b
  else if e = 0 then
    if f = 0 then BitVec.ofNat 64 sign
    else
      let k := Nat.log2 f
      BitVec.ofNat 64 (sign + (k + 874) * 2 ^ 52 + (f - 2 ^ k) * 2 ^ (52 - k))
  else BitVec.ofNat 64 (sign + (e + 896) * 2 ^ 52 + f * 2 ^ 29)

/-- A signed integer field of `n` bytes (R198). -/
def readLong (n : Nat) (w : Bytes) : Dec (DataValue × Bytes) := do
  let (s, w) ← memRead n w
  .ok (.long (longValue s), w)

/-- A 32-bit float field (R199). -/
def readFloat (w : Bytes) : Dec (DataValue × Bytes) := do
  let (s, w) ← memRead 4 w
  .ok (.double (widenFloat (BitVec.ofNat 32 (leNat s))), w)

/-- A BCD field of `n` bytes (R200). -/
def readBcd (n : Nat) (w : Bytes) : Dec (DataValue × Bytes) := do
  let (s, w) ← memRead n w
  let b ← bcdDecode s
  .ok (.bcd b, w)

/-- A variable-length field: `LVAR` below `0xC0` is a string of that many bytes, last character first (R201). -/
def readString (w : Bytes) : Dec (DataValue × Bytes) := do
  let (lvar, w) ← memReadByte w
  if lvar.toNat ≥ 0xC0 then .error .unrecognisedDifVif
  else do
    let (s, w) ← memRead lvar.toNat w
    .ok (.string (s.reverse.map (fun c => charOf c.toNat)), w)

/-- A compact date, type G (R202). -/
def readDateG (w : Bytes) : Dec (DataValue × Bytes) := do
  let (s, w) ← memRead 2 w
  let s0 := (byteAt s 0).toNat
  let s1 := (byteAt s 1).toNat
  .ok (.dateG { day := bitsOf s0 0 5, month := bitsOf s1 0 4, year := bitsOf s0 5 3 + 8 * bitsOf s1 4 4 }, w)

/-- A date and time, type F (R203). -/
def readDateF (w : Bytes) : Dec (DataValue × Bytes) := do
  let (s, w) ← memRead 4 w
  let s0 := (byteAt s 0).toNat
  let s1 := (byteAt s 1).toNat
  let s2 := (byteAt s 2).toNat
  let s3 := (byteAt s 3).toNat
  .ok (.dateF { minute := bitsOf s0 0 6, invalid := bitsOf s0 7 1 == 1, hour := bitsOf s1 0 5,
                summer := bitsOf s1 7 1 == 1, day := bitsOf s2 0 5, month := bitsOf s3 0 4,
                year := bitsOf s2 5 3 + 8 * bitsOf s3 4 4 }, w)

/-- Data field dispatch on the data field code and the hint (R196, R204). Under DATE every code but `0x2` and `0x4` raises,
`0x0`, `0x8` and `0xD` too: so 30_encoding.md R120 and the ruling of 93 U20, where rows of R196 read these three under any
hint (log 34: DEDUCED). -/
def readData (code : Nat) (hint : Hint) (w : Bytes) : Dec (DataValue × Bytes) :=
  match hint with
  | .date =>
    if code = 0x2 then readDateG w
    else if code = 0x4 then readDateF w
    else .error .unrecognisedDifVif
  | .numeric =>
    match code with
    | 0x0 => .ok (.none, w)
    | 0x8 => .ok (.none, w)
    | 0xD => readString w
    | 0x1 => readLong 1 w
    | 0x2 => readLong 2 w
    | 0x3 => readLong 3 w
    | 0x4 => readLong 4 w
    | 0x5 => readFloat w
    | 0x6 => readLong 6 w
    | 0x7 => readLong 8 w
    | 0x9 => readBcd 1 w
    | 0xA => readBcd 2 w
    | 0xB => readBcd 3 w
    | 0xC => readBcd 4 w
    | 0xE => readBcd 6 w
    | _ => .error .unrecognisedDifVif

/-- DR.DEC at the cursor: the record and what is left of the window (R191). -/
def readRecord (p : Params) (w : Bytes) : Dec (DataRecord × Bytes) := do
  let (dib, w) ← chain w
  let (vib, w) ← chain w
  let e ← vifLookup p vib
  let f := dibFields dib
  let (v, w) ← readData f.code e.hint w
  .ok ({ dib := dib, vib := vib, functionField := f.functionField, storageNumber := f.storageNumber,
         tariff := f.tariff, subunit := f.subunit, description := e.description, unit := unitOf p e.unit,
         multiplierExponent := e.multiplierExponent, dataValue := v }, w)

/-- DR.DEC `buf, p, remainingLength`: the record and the offset of the byte after it (R191). -/
def recordAt (pr : Params) (buf : Bytes) (p remaining : Nat) : Dec (DataRecord × Nat) := do
  let w ← window buf p remaining
  let (r, rest) ← readRecord pr w
  .ok (r, p + remaining - rest.length)

/-- The `dataValueType` of a value (10_state.md R30). -/
def dataValueType : DataValue → DataValueType
  | .none => .none
  | .long _ => .long
  | .double _ => .double
  | .bcd _ => .bcd
  | .dateG _ => .date
  | .dateF _ => .date
  | .string _ => .string

/-- `n / d * 10^e`, exactly (R210, R211). -/
def scaleBy10 (n : Int) (d : Nat) (e : Int) : ℚ :=
  if 0 ≤ e then mkRat (n * 10 ^ e.toNat) d else mkRat n (d * 10 ^ (-e).toNat)

/-- A DOUBLE times `10^e`; one that is infinite or NaN scales to itself (R210). -/
def scaleDouble (bits : BitVec 64) (e : Int) : Scaled :=
  let x := bitsOf bits.toNat 52 11
  let f := bitsOf bits.toNat 0 52
  if x = 2047 then .double bits
  else
    let m : Nat := if x = 0 then f else 2 ^ 52 + f
    let k : Nat := if x = 0 then 1 else x
    let n : Int := if bits.msb then -(m : Int) else m
    .rational (if 1075 ≤ k then scaleBy10 (n * 2 ^ (k - 1075)) 1 e else scaleBy10 n (2 ^ (1075 - k)) e)

/-- DR.SCALE (R210). -/
def scaledValue (r : DataRecord) : Run Scaled :=
  match r.dataValue with
  | .long v => .ok (.rational (scaleBy10 v.toInt 1 r.multiplierExponent.toInt))
  | .double b => .ok (scaleDouble b r.multiplierExponent.toInt)
  | .bcd b => do
    let v ← bcdLong b
    .ok (.rational (scaleBy10 v.toInt 1 r.multiplierExponent.toInt))
  | .dateG d => .ok (.unscaled (.dateG d))
  | .dateF d => .ok (.unscaled (.dateF d))
  | .string cs => .ok (.unscaled (.string cs))
  | .none => .ok .nothing

/-- DR.DEC (R191): makes a DataRecord object. -/
def execDrDec (buf : Bytes) (p remaining : Nat) (s : State) : Out :=
  finish (Run.ofDec (recordAt s.params buf p remaining))
    (fun x => (s.addRec x.1).respond (.record s.recs.length x.2)) s

/-- DR.SCALE (R210). -/
def execDrScale (r : RecRef) (s : State) : Out :=
  conclude (do let r ← recAt s r; let v ← scaledValue r; .ok (.scaled v)) s

end Sys2Proof.Machine
end

