-- ==== Sys2Proof/Machine/Vds.lean ====
section
/-! DEFINITION. The VDS unit (44_vds.md): header, encryption and record list of the application-layer payload. The
cursor is what is left of the window (10_state.md R22). -/

namespace Sys2Proof.Machine

/-! ## Construction (R280; 10_state.md R31) -/

/-- VDS.NEW: the operands stored, every other field at its construction value; `ci` is unspecified there (log 17). -/
def Vds.new (buf : Bytes) (off len : Nat) (llAddr : Option SecondaryAddress) (keys : Bool) : Vds where
  buf := buf
  off := off
  len := len
  llAddr := llAddr
  keys := keys
  phase := .raw
  ci := 0#8
  secondaryAddress := Option.none
  headerPresent := false
  accessNumber := 0#8
  status := 0#8
  numberOfEncryptedBlocks := 0#8
  encryptionMode := .none
  dataRecords := []
  manufacturerData := []
  moreRecordsFollow := false

/-! ## Short header (R286; 30_encoding.md R104) -/

/-- The encryption mode with an id `0..15` (10_state.md R32). -/
def encModeOf (id : Nat) : EncMode :=
  if id = 0 then .none else if id = 5 then .aesCbcIv else .reserved (BitVec.ofNat 4 id)

/-- The fields of the four bytes of a short header. -/
def shortHeaderOf (h : Bytes) : ShortHeader where
  accessNumber := byteAt h 0
  status := byteAt h 1
  numberOfEncryptedBlocks := BitVec.ofNat 8 (hi (byteAt h 2))
  encryptionMode := encModeOf (lo (byteAt h 3))

/-- The short-header parse at the cursor. -/
def readShortHeader (w : Bytes) : Dec (ShortHeader × Bytes) := do
  let (h, w) ← memRead 4 w
  .ok (shortHeaderOf h, w)

/-- The long header at the cursor: an address in long-header order, then a short header (30_encoding.md R105). -/
def readLongHeader (w : Bytes) : Dec (SecondaryAddress × ShortHeader × Bytes) := do
  let (a, w) ← readSaLh w
  let (h, w) ← readShortHeader w
  .ok (a, h, w)

/-- Whether VDS.DEC rejects the mode (R287, R289). -/
def EncMode.isReserved : EncMode → Bool
  | .reserved _ => true
  | _ => false

/-! ## Record loop (R300 to R305) -/

/-- What the record loop writes. -/
structure RecordList where
  records : List DataRecord
  manufacturerData : Bytes
  moreRecordsFollow : Bool
  deriving DecidableEq, Repr

/-- The record loop over what is left of a buffer. It goes on while at least `VDS_MIN_BEFORE_TAIL` bytes remain before
the tail of `VDS_TAIL` bytes; the records read are bounded by the end, tail included (R304). Each turn reads at least
one byte, so the number of bytes bounds the turns. -/
def recordLoop (p : Params) : Nat → Bytes → Dec RecordList
  | 0, _ => .ok { records := [], manufacturerData := [], moreRecordsFollow := false }
  | fuel + 1, w =>
    if w.length < p.vdsTail + p.vdsMinBeforeTail then
      .ok { records := [], manufacturerData := [], moreRecordsFollow := false }
    else do
      let (x, rest) ← memReadByte w
      match specialByte x with
      | .fill => recordLoop p fuel rest
      | .marker more =>
        .ok { records := [], manufacturerData := rest.take (rest.length - p.vdsTail), moreRecordsFollow := more }
      | .dif =>
        let (r, rest) ← readRecord p w
        let l ← recordLoop p fuel rest
        .ok { l with records := r :: l.records }

/-- The record list of a buffer from the cursor on. -/
def readRecords (p : Params) (w : Bytes) : Dec RecordList := recordLoop p (w.length + 1) w

/-! ## Decode (R281 to R295) -/

/-- The fields the short header and the record loop write, copied into the object (R281, R307). -/
def Vds.withHeader (h : ShortHeader) (v : Vds) : Vds :=
  { v with
    headerPresent := true, accessNumber := h.accessNumber, status := h.status,
    numberOfEncryptedBlocks := h.numberOfEncryptedBlocks, encryptionMode := h.encryptionMode }

/-- The fields the record loop writes. -/
def Vds.withRecords (l : RecordList) (v : Vds) : Vds :=
  { v with
    dataRecords := l.records, manufacturerData := l.manufacturerData, moreRecordsFollow := l.moreRecordsFollow }

/-- The IV: the 8 raw bytes of the link-layer address, then the access number 8 times (30_encoding.md R112). -/
def ivOf (raw : Bytes) (accessNumber : Byte) : Bytes := raw ++ List.replicate 8 accessNumber

/-- The key a VDS decrypts with: "KEYMAP read, at this moment" (R292). The address is checked before the key. -/
def vdsKey (keymap : KeyMap) (v : Vds) : Dec (SecondaryAddress × Bytes) :=
  match v.llAddr with
  | none => .error .missingLinkLayerAddress
  | some a =>
    match (if v.keys then KeyMap.get keymap a.raw else none) with
    | none => .error .missingKey
    | some key => .ok (a, key)

/-- The decrypted buffer, once its first two bytes are the fill bytes `2F 2F` (R294); the ciphertext is all that is
left of the window, tail included. -/
def decryptPayload (key iv : Bytes) (blocks : Nat) (w : Bytes) : Dec Bytes := do
  let m ← decryptWindow key iv w 0 w.length blocks
  let (chk, _) ← memRead 2 m
  if chk = [0x2F#8, 0x2F#8] then .ok m else .error .wrongKey

/-- CI `0x72` (R287): nothing is decrypted, whatever the mode and the block count say. -/
def vdsLong (p : Params) (v : Vds) (w : Bytes) : Dec Vds := do
  let (a, h, w) ← readLongHeader w
  if h.encryptionMode.isReserved then .error .unsupportedEncryptionMode
  else do
    let l ← readRecords p w
    .ok ({ v.withHeader h with secondaryAddress := some a }.withRecords l)

/-- CI `0x78` (R288): no header. -/
def vdsNone (p : Params) (v : Vds) (w : Bytes) : Dec Vds := do
  let l ← readRecords p w
  .ok (v.withRecords l)

/-- CI `0x7A` (R289, R292, R294, R295). -/
def vdsShort (p : Params) (keymap : KeyMap) (v : Vds) (w : Bytes) : Dec Vds := do
  let (h, w) ← readShortHeader w
  match h.encryptionMode with
  | .none =>
    let l ← readRecords p w
    .ok ((v.withHeader h).withRecords l)
  | .aesCbcIv =>
    let (a, key) ← vdsKey keymap v
    let m ← decryptPayload key (ivOf a.raw h.accessNumber) h.numberOfEncryptedBlocks.toNat w
    let l ← readRecords p m
    .ok ((v.withHeader h).withRecords l)
  | .reserved _ => .error .unsupportedEncryptionMode

/-- The temporaries of VDS.DEC: the object as it was constructed (R281). -/
def Vds.fresh (v : Vds) : Vds := Vds.new v.buf v.off v.len v.llAddr v.keys

/-- The five-way dispatch on the CI byte (R281, R283). -/
def vdsByCi (p : Params) (keymap : KeyMap) (v : Vds) (ci : Byte) (w : Bytes) : Dec Vds :=
  match ciReceived ci with
  | .longHeader => vdsLong p v w
  | .noHeader => vdsNone p v w
  | .shortHeader => vdsShort p keymap v w
  | .manufacturerSpecific => .error .manufacturerSpecificCI
  | .unsupported => .error .unsupportedCI

/-- The body of VDS.DEC (R281): the window, the CI byte, then the dispatch. -/
def vdsBody (p : Params) (keymap : KeyMap) (v : Vds) : Dec Vds := do
  let w ← window v.buf v.off v.len
  let (ci, w) ← memReadByte w
  let t ← vdsByCi p keymap v.fresh ci w
  .ok { t with ci := ci, phase := .decoded }

/-- The object after a VDS.DEC that failed: `phase = Failed` and nothing else written (R281, R306). -/
def Vds.fail (v : Vds) : Vds := { v with phase := .failed }

/-- The three endings of VDS.DEC as a tagged outcome (R308). -/
inductive DecodeOutcome where
  | standard (v : Vds)
  | vendorSpecific (manufacturer : Option (List Char)) (ciByte : Byte) (raw : Bytes)
  | malformed (c : Cause)
  deriving DecidableEq, Repr

/-- The tagged outcome of decoding `v` (R308). -/
def decodeOutcome (v : Vds) : Dec Vds → DecodeOutcome
  | .ok t => .standard t
  | .error .manufacturerSpecificCI =>
    .vendorSpecific (v.llAddr.map (fun a => a.manufacturerId)) (byteAt v.buf v.off) ((v.buf.drop v.off).take v.len)
  | .error c => .malformed c

/-! ## Operations -/

/-- VDS.NEW (R280): makes a VDS object. It reads no byte of the buffer. -/
def execVdsNew (buf : Bytes) (off len : Nat) (llAddr : Option SaRef) (keys : Bool) (s : State) : Out :=
  finish (optSaAt s llAddr)
    (fun a => (s.addVds (Vds.new buf off len a keys)).respond (.vds s.vdss.length)) s

/-- VDS.DEC (R281): the object becomes Decoded or Failed; a second decode is refused. -/
def execVdsDec (n : Nat) (s : State) : Out :=
  proceed (objAt s.vdss n)
    (fun v =>
      if v.phase ≠ .raw then .refused .decodeTwice
      else
        match vdsBody s.params s.keymap v with
        | .ok t => .next ((s.setVds n t).respond (.vds n))
        | .error c => .next ((s.setVds n v.fail).raise c)) s

end Sys2Proof.Machine
end

