-- ==== Sys2Proof/Machine/Wired.lean ====
section
/-! DEFINITION. The WFC unit (45_wired_frame.md): wired frames, checksum, receive, and the link operations. -/

namespace Sys2Proof.Machine

/-! ## Encode (R321, R322) -/

/-- ENC.SHORT (R321). -/
def encShortFrame (c a : Byte) : Bytes := [0x10#8, c, a, checksum [c, a], 0x16#8]

/-- The long frame of at most 252 data bytes (R322). -/
def encLongFrame (c a ci : Byte) (data : Bytes) : Bytes :=
  let l : Byte := BitVec.ofNat 8 (3 + data.length)
  [0x68#8, l, l, 0x68#8, c, a, ci] ++ data ++ [checksum (c :: a :: ci :: data), 0x16#8]

/-- ENC.LONG (R322). -/
def encLongOp (c a ci : Byte) (data : Bytes) : Run Bytes :=
  if data.length > Config.maxData then .error (.refused .payloadTooLong) else .ok (encLongFrame c a ci data)

/-! ## Checksum (R332) -/

/-- CHK.VERIFY (R332). -/
def chkVerify (f : Bytes) : Bool :=
  if f.length = 1 then byteAt f 0 == 0xE5#8
  else if byteAt f 0 = 0x10#8 then
    f.length == 5 && byteAt f 3 == checksum [byteAt f 1, byteAt f 2] && byteAt f 4 == 0x16#8
  else if byteAt f 0 = 0x68#8 ∧ 2 ≤ f.length ∧ f.length = (byteAt f 1).toNat + 6 ∧ 3 ≤ (byteAt f 1).toNat then
    (integrityFlags (byteAt f 1) f).all
  else false

/-! ## Decode from a buffer (R334, R335) -/

/-- The long frame whose `L + 6` bytes are `f` (R334). -/
def longFrameOf (l : Byte) (f : Bytes) : LongFrame where
  l := l
  control := byteAt f 4
  address := byteAt f 5
  ci := byteAt f 6
  payload := (f.drop 7).take (l.toNat - 3)
  checksum := byteAt f (l.toNat + 4)
  bytes := f
  flags := integrityFlags l f

/-- The checks of a long frame whose bytes have all been read: `L`, and the flags if they are enforced. -/
def checkLongFrame (enforce : Bool) (l : Byte) (f : Bytes) : Dec LongFrame :=
  if l.toNat < 3 then .error .malformedFrame
  else if enforce && !(integrityFlags l f).all then .error .malformedFrame
  else .ok (longFrameOf l f)

/-- DEC.FRAME (R334): the frame and the number of bytes used. -/
def decFrameOf (enforce : Bool) (buf : Bytes) : Dec (WiredFrame × Nat) := do
  let (b, w) ← memReadByte buf
  if b = 0xE5#8 then .ok (.singleCharacter, 1)
  else if b ≠ 0x68#8 then .error .unexpectedByte
  else do
    let (l, _) ← memReadByte w
    let (f, _) ← memRead (l.toNat + 6) buf
    let fr ← checkLongFrame enforce l f
    .ok (.long fr, l.toNat + 6)

/-- DEC.SHORT (R335). -/
def decShortOf (buf : Bytes) : Dec ShortFrame := do
  let (f, _) ← memRead 5 buf
  if byteAt f 0 ≠ 0x10#8 then .error .unexpectedByte
  else
    .ok { control := byteAt f 1, address := byteAt f 2, checksum := byteAt f 3,
          cksOk := byteAt f 3 == checksum [byteAt f 1, byteAt f 2], stopOk := byteAt f 4 == 0x16#8 }

/-! ## Receive (R340, R342) -/

/-- One turn of RX.FRAME up to the echo comparison: the frame and its bytes, or the failure. -/
def rxOnce (s : State) : Dec (WiredFrame × Bytes) × State :=
  match s.tpReadByte with
  | (none, s) => (.error .noResponse, s)
  | (some b, s) =>
    if b = 0xE5#8 then (.ok (.singleCharacter, [b]), s)
    else if b ≠ 0x68#8 then (.error .unexpectedByte, s)
    else
      match s.tpReadByte with
      | (none, s) => (.error .incompleteResponse, s)
      | (some l, s) =>
        match s.tpReadExactly (l.toNat + 4) with
        | (bs, s) =>
          if bs.length < l.toNat + 4 then (.error .incompleteResponse, s)
          else
            match checkLongFrame s.params.rxEnforceIntegrity l (b :: l :: bs) with
            | .error c => (.error c, s)
            | .ok fr => (.ok (.long fr, b :: l :: bs), s)

/-- RX.FRAME: a frame that equals LASTTX byte for byte is dropped and the receive starts again (R342). Each turn that
starts again has taken bytes from the transport, so their number bounds the turns. -/
def rxLoop : Nat → State → Dec WiredFrame × State
  | 0, s => (.error .noResponse, s)
  | fuel + 1, s =>
    match rxOnce s with
    | (.error c, s) => (.error c, s)
    | (.ok (fr, fb), s) => if s.lastTx = some fb then rxLoop fuel s else (.ok fr, s)

/-- RX.FRAME (R340). The timeout is the transport's business (log 28). -/
def rxFrame (s : State) : Dec WiredFrame × State := rxLoop (s.tpIn.length + 1) s

/-! ## Link operations (R346, R350 to R357) -/

/-- Send and receive: `TX.FRAME(f); LINK <- AwaitingResponse`, what the operation does before it receives, then
RX.FRAME. `LINK` is still `AwaitingResponse`. -/
def exchange (f : Bytes) (beforeReceive : State → State) (s : State) : Dec WiredFrame × State :=
  rxFrame (beforeReceive ((s.transmit f).setLink .awaitingResponse))

/-- The exchange of an operation that expects the acknowledgement `0xE5` (R351 to R356): `onAck` is done on the
acknowledgement only; `LINK` is Idle at every ending. -/
def ackExchange (f : Bytes) (onAck : State → State) (s : State) : Out :=
  match exchange f id s with
  | (.ok .singleCharacter, s) => .next (((onAck s).setLink .idle).respond .none)
  | (.ok (.long _), s) => .next ((s.setLink .idle).raise .unexpectedResponse)
  | (.error c, s) => .next ((s.setLink .idle).raise c)

/-- An acknowledged operation: the tests for a refusal come before anything is sent (60_exceptions.md R472). -/
def ackOp (frame : Run Bytes) (onAck : State → State) (s : State) : Out :=
  proceed (do needLink s; frame) (fun f => ackExchange f onAck s) s

/-- The VDS of a received long frame, decoded: the window of R282, no link-layer address, the session's KEYMAP. -/
def frameVds (fr : LongFrame) (s : State) : Dec Vds :=
  vdsBody s.params s.keymap (Vds.new fr.bytes 6 fr.l.toNat none true)

/-- What LNK.READ makes of the answer (R350). -/
def readAnswer (fr : WiredFrame) (s : State) : Dec Vds :=
  match fr with
  | .singleCharacter => .error .unexpectedResponse
  | .long fr => if isRspUd fr.control then frameVds fr s else .error .wrongMessageType

/-- LNK.READ without its result's object (R350): FCB[a] is toggled once the request is sent, before the receive. -/
def readExchange (a : Byte) (s : State) : Dec Vds × State :=
  match exchange (encShortFrame (reqUd2Control (fcbGet s.fcb a)) a) (fun s => s.setFcb (fcbToggle s.fcb a)) s with
  | (.ok fr, s) => (readAnswer fr s, s.setLink .idle)
  | (.error c, s) => (.error c, s.setLink .idle)

/-- The select frame: `0xFD`, CI and 8 bytes, under the parameter C_SND_UD_SEL (R353, R354, R357). -/
def selectFrame (p : Params) (ci : Byte) (addr : Bytes) : Run Bytes := encLongOp p.cSndUdSel Config.selAddr ci addr

/-- LNK.SCANSEL's exchange (R357): 0 if not one byte arrived, 1 on every other ending. -/
def scanselExchange (f : Bytes) (s : State) : Bool × State :=
  match exchange f id s with
  | (.error .noResponse, s) => (false, s.setLink .idle)
  | (_, s) => (true, s.setLink .idle)

/-! ## Operations -/

/-- ENC.SHORT (R321): total. -/
def execEncShort (c a : Byte) (s : State) : Out := .next (s.respond (.bytes (encShortFrame c a)))

/-- ENC.LONG (R322). -/
def execEncLong (c a ci : Byte) (data : Bytes) (s : State) : Out :=
  conclude (do let f ← encLongOp c a ci data; .ok (.bytes f)) s

/-- CHK.SUM (R330): total. -/
def execChkSum (bs : Bytes) (s : State) : Out := .next (s.respond (.byte (checksum bs)))

/-- CHK.VERIFY (R332): total. -/
def execChkVerify (f : Bytes) (s : State) : Out := .next (s.respond (.bit (chkVerify f)))

/-- DEC.FRAME (R334). -/
def execDecFrame (buf : Bytes) (s : State) : Out :=
  conclude (do let (f, n) ← Run.ofDec (decFrameOf s.params.rxEnforceIntegrity buf); .ok (.frame f n)) s

/-- DEC.SHORT (R335). -/
def execDecShort (buf : Bytes) (s : State) : Out :=
  conclude (do let f ← Run.ofDec (decShortOf buf); .ok (.shortFrame f)) s

/-- The operand of TX.FRAME is no single-character frame, as its lead byte tells (30_encoding.md R94): "MBC never transmits
it" (R91, R323; log 31). -/
def needSendable (f : Bytes) : Run Unit :=
  if f.head? = some 0xE5#8 then .error (.refused .singleCharacterOnlyReceived) else .ok ()

/-- TX.FRAME (R336). It looks at LINK (R320) and does not write it (log 22). R336 speaks of results of ENC.SHORT and
ENC.LONG; any other byte string but a single-character frame is transmitted and becomes LASTTX in the same way (log 31:
DESIGN CHOICE). -/
def execTxFrame (f : Bytes) (s : State) : Out :=
  finish (do needLink s; needSendable f) (fun _ => (s.transmit f).respond .none) s

/-- RX.FRAME (R340). It looks at LINK (R320) and does not write it (log 22). -/
def execRxFrame (_t : Nat) (s : State) : Out :=
  proceed (needLink s)
    (fun _ =>
      match rxFrame s with
      | (.ok fr, s) => .next (s.respond (.received fr))
      | (.error c, s) => .next (s.raise c)) s

/-- LNK.READ (R350). -/
def execLnkRead (a : Byte) (_t : Nat) (s : State) : Out :=
  proceed (needLink s)
    (fun _ =>
      match readExchange a s with
      | (.ok v, s) => .next ((s.addVds v).respond (.vds s.vdss.length))
      | (.error c, s) => .next (s.raise c)) s

/-- LNK.WRITE (R351). -/
def execLnkWrite (a : Byte) (payload : Bytes) (_t : Nat) (s : State) : Out :=
  ackOp (encLongOp Config.cSndUdWr a 0x51#8 payload) id s

/-- LNK.RESET (R352): FCB[a] is set after the acknowledgement. -/
def execLnkReset (a : Byte) (_t : Nat) (s : State) : Out :=
  ackOp (.ok (encShortFrame 0x40#8 a)) (fun s => s.setFcb (fcbSet s.fcb a)) s

/-- LNK.SELECT (R353). -/
def execLnkSelect (sa : SaRef) (_t : Nat) (s : State) : Out :=
  ackOp (do let a ← saAt s sa; selectFrame s.params 0x52#8 a.raw) id s

/-- LNK.DESELECT (R354). -/
def execLnkDeselect (sa : SaRef) (_t : Nat) (s : State) : Out :=
  ackOp (do let a ← saAt s sa; selectFrame s.params 0x56#8 a.raw) id s

/-- LNK.SELRD (R355). -/
def execLnkSelrd (a : Byte) (payload : Bytes) (_t : Nat) (s : State) : Out :=
  ackOp (encLongOp s.params.cSndUdSel a 0x51#8 payload) id s

/-- LNK.RSTRD (R356). -/
def execLnkRstrd (a : Byte) (_t : Nat) (s : State) : Out :=
  ackOp (encLongOp s.params.cSndUdSel a 0x50#8 []) id s

/-- LNK.SCANSEL (R357). -/
def execLnkScansel (wild : Bytes) (_t : Nat) (s : State) : Out :=
  proceed (do needLink s; selectFrame s.params 0x52#8 wild)
    (fun f =>
      match scanselExchange f s with
      | (answered, s) => .next (s.respond (.bit answered))) s

end Sys2Proof.Machine
end

