-- ==== Sys2Proof/Machine/Scan.lean ====
section
/-! DEFINITION. The SCAN unit (48_scanner.md): the wildcard search for secondary addresses. -/

namespace Sys2Proof.Machine

/-! ## Mask and packing (R422 to R426) -/

/-- The two characters of every pair exchanged; nothing for a string of odd length (R422). -/
def flipPairs : List Char → Option (List Char)
  | [] => some []
  | [_] => none
  | a :: b :: m => (flipPairs m).map (fun r => b :: a :: r)

/-- MASK.FLIP (R422). -/
def maskFlipOp (m : List Char) : Run (List Char) :=
  match flipPairs m with
  | some r => .ok r
  | none => .error (.refused .badMask)

/-- The value of a mask character: `0..9`, or 15 for `f` and `F` (R424). -/
def maskDigit (c : Char) : Option Nat :=
  if 48 ≤ c.toNat ∧ c.toNat ≤ 57 then some (c.toNat - 48)
  else if c = 'f' ∨ c = 'F' then some 15
  else none

/-- The values of the characters, if every one is a mask character. -/
def maskDigits : List Char → Option (List Nat)
  | [] => some []
  | c :: m => do
    let d ← maskDigit c
    let ds ← maskDigits m
    some (d :: ds)

/-- The least index that holds 15, or the length (R424). -/
def firstWild : List Nat → Nat
  | [] => 0
  | d :: ds => if d = 15 then 0 else 1 + firstWild ds

/-- The 16 positions after the mask: positions 8 to 15 are always wildcards (R424). -/
def maskValue (r : List Nat) : List Nat := r.take 8 ++ List.replicate 8 15

/-- `pos` after the mask: the first wildcard, clamped to 7 (R424). -/
def maskPos (value : List Nat) : Nat := min (firstWild value) Config.scanMaxPos

/-- The scanner state SCAN.INIT makes of the nibbles of the mask (R424). -/
def scannerOf (zero : Bool) (r : List Nat) : Scanner :=
  let value := maskValue r
  let pos := maskPos value
  { pos := pos
    value := if zero && value.getD pos 0 == 15 then value.set pos 0 else value
    found := [], stop := false, abortReq := false, running := true }

/-- SCAN.INIT (R424). -/
def scanInitOp (zero : Bool) (m : List Char) : Run Scanner :=
  if m.length ≠ Config.scanNibbles then .error (.refused .badMask)
  else
    match flipPairs m >>= maskDigits with
    | some r => .ok (scannerOf zero r)
    | none => .error (.refused .badMask)

/-- SCAN.PACK (R426; 30_encoding.md R113): byte `i` is `((value[2i+1] & 0xF) << 4) | (value[2i] & 0xF)`. -/
def packWild (value : List Nat) : Bytes :=
  (List.range 8).map (fun i => nibbles (value.getD (2 * i + 1) 0) (value.getD (2 * i) 0))

/-! ## Narrowing and advancing (R428, R430) -/

/-- SCAN.NARROW (R428). -/
def Scanner.narrow (sc : Scanner) : Scanner :=
  { sc with pos := sc.pos + 1, value := sc.value.set (sc.pos + 1) 0 }

/-- `value[k] <- 0xF` for every `k > pos` (R430). -/
def wildAfter (pos : Nat) (value : List Nat) : List Nat :=
  value.take (pos + 1) ++ List.replicate (value.length - (pos + 1)) 15

/-- The carry loop of SCAN.ADV, entered at `pos`: it backs up one nibble per turn, and at position 0 an overflow sets
`stop`. The carry test is `> 10`, not `> 9` (R430, R431). -/
def advCarry : Nat → Scanner → Scanner
  | 0, sc => { sc with stop := true }
  | pos + 1, sc =>
    let d := sc.value.getD pos 0 + 1
    let sc := { sc with pos := pos, value := wildAfter pos (sc.value.set pos d) }
    if d > 10 then advCarry pos sc else sc

/-- SCAN.ADV (R430). The nibble is incremented without a bound: the host that goes on after `stop` takes `value[0]` past 16,
where R35 gives neither a legal value nor a width at which it would wrap (log 36: DESIGN CHOICE). -/
def Scanner.adv (sc : Scanner) : Scanner :=
  let d := sc.value.getD sc.pos 0 + 1
  let sc := { sc with value := sc.value.set sc.pos d }
  if d < 10 then sc else advCarry sc.pos sc

/-! ## The loop (R434, R436) -/

/-- What a probe found (R434). -/
inductive ScanOutcome where
  | noAnswer
  | one (a : SecondaryAddress)
  | collision
  deriving DecidableEq, Repr

/-- The outcome of the read after an answered probe: exactly one device only if the VDS decodes under CI `0x72` with an
address (R434). -/
def readOutcome : Dec Vds → ScanOutcome
  | .error _ => .collision
  | .ok v =>
    match v.secondaryAddress with
    | some a => if v.ci = 0x72#8 then .one a else .collision
    | none => .collision

/-- The probe `f`, and the read if it was answered (R434). -/
def probe (f : Bytes) (s : State) : ScanOutcome × State :=
  match scanselExchange f s with
  | (false, s) => (.noAnswer, s)
  | (true, s) =>
    match readExchange Config.selAddr s with
    | (r, s) => (readOutcome r, s)

/-- `emit onScanMessage(text)`: the text is a free value (92 D52, log 13). -/
def State.scanMessage (s : State) : State := (s.emit (.onScanMessage (Config.scanMessageText s.free))).drawFree

/-- The scanner recorded an address: no entry of `found` may be SA.EQ to it (R434). -/
def Scanner.record (a : SecondaryAddress) (sc : Scanner) : Scanner := { sc with found := sc.found ++ [a] }

/-- The address recorded and notified, unless it is there already (R434). -/
def State.found (a : SecondaryAddress) (s : State) : State :=
  if s.scanner.found.any (fun e => saEq e a) then s
  else (s.setScanner (s.scanner.record a)).emit (.onDeviceFound a)

/-- What SCAN.STEP does with the outcome (R434). -/
def scanMove (o : ScanOutcome) (s : State) : State :=
  match o with
  | .noAnswer => s.setScanner s.scanner.adv
  | .one a => (s.found a).setScanner (s.found a).scanner.adv
  | .collision =>
    s.setScanner (if s.scanner.pos < Config.scanMaxPos then s.scanner.narrow else s.scanner.adv)

/-- The probe frame for the scanner's nibbles: LNK.SCANSEL of SCAN.PACK (R434). -/
def probeFrame (s : State) : Bytes := encLongFrame s.params.cSndUdSel Config.selAddr 0x52#8 (packWild s.scanner.value)

/-- SCAN.STEP without its CMD response (R434). -/
def scanStep (s : State) : State :=
  match probe (probeFrame s) s with
  | (o, s) => scanMove o s.scanMessage

/-- The loop of SCAN.RUN (R436): `stop` and `abortReq` are looked at before every step, the first one included, and at no
other time. -/
def scanLoop : Nat → State → State
  | 0, s => s.lookAtAbort
  | fuel + 1, s =>
    let s := s.lookAtAbort
    if s.scanner.stop || s.scanner.abortReq then s else scanLoop fuel (scanStep s)

/-- The number of steps no scan exceeds, `Σ_{k=1..8} 11^k` (R439, log 12). -/
def scanBound : Nat := 235794768

/-- SCAN.RUN ends: no scan runs any more; the result is what was found (R436). -/
def State.endScan (s : State) : State :=
  (s.setScanner { s.scanner with running := false }).respond (.found s.scanner.found)

/-! ## Operations -/

/-- A scanner is there: the session is wired (10_state.md R20, log 18). -/
def needScanner (s : State) : Run Unit :=
  if s.kind = .wired then .ok () else .error (.faulted .noScanner)

/-- What the CMD port returns for SCAN.INIT, SCAN.STEP, SCAN.ADV and SCAN.NARROW: `pos` and `value`. The spec names no result
of the last three (R428, R430, R434; log 33: DESIGN CHOICE). -/
def State.answerScanner (s : State) : State := s.respond (.scanner s.scanner.pos s.scanner.value)

/-- SCAN.INIT (R424). -/
def execScanInit (mask : List Char) (s : State) : Out :=
  finish (do needScanner s; scanInitOp s.params.scanInitZero mask) (fun sc => (s.setScanner sc).answerScanner) s

/-- SCAN.STEP (R434). -/
def execScanStep (_t : Nat) (s : State) : Out :=
  finish (needLink s) (fun _ => (scanStep s).answerScanner) s

/-- SCAN.ADV (R430). -/
def execScanAdv (s : State) : Out :=
  finish (needScanner s) (fun _ => (s.setScanner s.scanner.adv).answerScanner) s

/-- The scanner SCAN.NARROW makes: it "is not called with `pos = 7`" (R428; log 10). -/
def scanNarrowOp (s : State) : Run Scanner := do
  needScanner s
  if s.scanner.pos < Config.scanMaxPos then .ok s.scanner.narrow else .error (.refused .narrowAtMaxPos)

/-- SCAN.NARROW (R428). -/
def execScanNarrow (s : State) : Out := finish (scanNarrowOp s) (fun sc => (s.setScanner sc).answerScanner) s

/-- SCAN.RUN (R436): a refusal is tested before anything is sent (60_exceptions.md R472). -/
def execScanRun (mask : List Char) (_t : Nat) (s : State) : Out :=
  finish (do needTransport s; let sc ← scanInitOp s.params.scanInitZero mask; needLink s; .ok sc)
    (fun sc => (scanLoop scanBound (s.setScanner sc)).endScan) s

/-- SCAN.ABORT (R438): "A SCAN.ABORT when no scan runs does nothing"; on a wireless session none ever runs. -/
def execScanAbort (s : State) : Out := .next ((s.setScanner s.scanner.abort).respond .none)

/-- SCAN.PACK (R426); the operand's bytes are the nibbles `value[0..16)`. -/
def execScanPack (value : Bytes) (s : State) : Out :=
  .next (s.respond (.bytes (packWild (value.map BitVec.toNat))))

/-- MASK.FLIP (R422). -/
def execMaskFlip (m : List Char) (s : State) : Out :=
  conclude (do let r ← maskFlipOp m; .ok (.text r)) s

end Sys2Proof.Machine
end

