-- ==== Sys2Proof/Machine/Wireless.lean ====
section
/-! DEFINITION. The WLC unit (46_wireless_frame.md): a delivered buffer, its header, its VDS. -/

namespace Sys2Proof.Machine

/-- A message over a delivered buffer, phase Raw (R380); the fields no rule has written yet are those of log 17. -/
def WlMessage.new (buf rssi : Bytes) : WlMessage where
  buf := buf
  rssi := rssi
  phase := .raw
  length := 0#8
  control := 0#8
  secondaryAddress := none
  vds := none

/-- WL.NEW: the message, and the event `onMessage` with the message in phase Raw (R380, 60_exceptions.md R480). The message
is also what the CMD port returned last, even where the buffer came in on the WL-IN port and no request asked for it, where
the spec is silent (10_state.md R41; log 26: DESIGN CHOICE). -/
def deliver (buf rssi : Bytes) (s : State) : State :=
  ((s.addMsg (WlMessage.new buf rssi)).emit (.onMessage s.msgs.length rssi)).respond (.message s.msgs.length)

/-- The header fields of a wireless buffer (R382): length, control, link-layer address. -/
def wlHeader (buf : Bytes) : Dec (Byte × Byte × SecondaryAddress) := do
  let (length, w) ← memReadByte buf
  if length.toNat > buf.length - 1 then .error .wirelessLengthExceedsBuffer
  else if length.toNat < 10 then .error .truncatedBuffer
  else do
    let (control, w) ← memReadByte w
    let (a, _) ← readSaLl w
    .ok (length, control, a)

/-- The message after its header was decoded. -/
def WlMessage.withHeader (h : Byte × Byte × SecondaryAddress) (m : WlMessage) : WlMessage :=
  { m with length := h.1, control := h.2.1, secondaryAddress := some h.2.2, phase := .header }

/-- The message after a WL.DEC that failed: `phase = Failed`, nothing else written (R382). -/
def WlMessage.fail (m : WlMessage) : WlMessage := { m with phase := .failed }

/-- WL.DEC of a message object: the message as the decode leaves it, and the failure if there is one. -/
def wlDecode (m : WlMessage) : Dec Unit × WlMessage :=
  match wlHeader m.buf with
  | .ok h => (.ok (), m.withHeader h)
  | .error c => (.error c, m.fail)

/-- The un-decoded VDS of a message whose header is decoded: the window `(buf, 10, length - 9)`, the frame's address,
the session's KEYMAP (R384). -/
def WlMessage.newVds (m : WlMessage) : Vds := Vds.new m.buf 10 (m.length.toNat - 9) m.secondaryAddress true

/-- The VDS part of WL.DEEP on message `n` with its header decoded: a new VDS object is made and decoded. If that
fails the message stays in phase Header and its VDS is in phase Failed (R384). -/
def deepDecode (n : Nat) (m : WlMessage) (s : State) : Out :=
  let m := { m with vds := some s.vdss.length }
  match vdsBody s.params s.keymap m.newVds with
  | .ok v => .next (((s.addVds v).setMsg n { m with phase := .deep }).respond (.message n))
  | .error c => .next (((s.addVds m.newVds.fail).setMsg n m).raise c)

/-- Whether WL.DEC and WL.DEEP are refused (R382, R384). -/
def WlMessage.isDone (m : WlMessage) : Bool := m.phase == .deep || m.phase == .failed

/-- An event of the transceiver driver, forwarded: "change no state of MBC" (R480). Only a wireless session has the
WL-IN port (10_state.md R20, R41; log 18). -/
def forwardEvent (e : Event) (s : State) : Out :=
  if s.kind = .wireless then .next (s.emit e) else .fault .noWirelessInput

/-- WL.NEW (R380), on a wireless session only (10_state.md R20, log 18). -/
def execWlNew (buf rssi : Bytes) (s : State) : Out :=
  if s.kind = .wireless then .next (deliver buf rssi s) else .fault .noWirelessInput

/-- WL.DEC (R382). -/
def execWlDec (n : Nat) (s : State) : Out :=
  proceed (objAt s.msgs n)
    (fun m =>
      if m.isDone then .refused .decodeTwice
      else
        match wlDecode m with
        | (.ok _, m) => .next ((s.setMsg n m).respond (.message n))
        | (.error c, m) => .next ((s.setMsg n m).raise c)) s

/-- WL.DEEP (R384): WL.DEC first if the phase is Raw; its exceptions pass through. -/
def execWlDeep (n : Nat) (s : State) : Out :=
  proceed (objAt s.msgs n)
    (fun m =>
      if m.isDone then .refused .decodeTwice
      else if m.phase = .header then deepDecode n m s
      else
        match wlDecode m with
        | (.ok _, m) => deepDecode n m s
        | (.error c, m) => .next ((s.setMsg n m).raise c)) s

end Sys2Proof.Machine
end

