-- ==== Sys2Proof/Machine/Formats.lean ====
section
/-! DEFINITION. The rows of the opcode table that are wire formats, tables and bit patterns (30_encoding.md R91 to R113).
A format request applies the layout rule of its row to the bytes it is given and answers the fields, or assembles the
bytes from the fields, or looks a value up; it changes nothing but the CMD response (log 19). -/

namespace Sys2Proof.Machine

/-- The fields of a reading, answered. -/
def concludeFields (r : Dec FormatFields) (s : State) : Out :=
  conclude (do let f ← Run.ofDec r; .ok (.fields f)) s

/-- F-LONG (R93): the bytes of a long frame, read. -/
def readLongFormat (enforce : Bool) (buf : Bytes) : Dec (WiredFrame × Nat) := do
  let (b, _) ← memReadByte buf
  if b ≠ 0x68#8 then .error .unexpectedByte else decFrameOf enforce buf

/-- F-WL (R100): the header, and the VDS window `(buf, 10, length - 9)`. -/
def readWireless (buf : Bytes) : Dec FormatFields := do
  let (length, control, a) ← wlHeader buf
  .ok (.wireless length control a 10 (length.toNat - 9))

/-- F-MAN (R103): the three letter groups. -/
def letterGroups (m0 m1 : Byte) : FormatFields :=
  match manGroups m0 m1 with
  | (g0, g1, g2) => .letterGroups (BitVec.ofNat 5 g0) (BitVec.ofNat 5 g1) (BitVec.ofNat 5 g2)

/-- F-VIB (R107): the block and its entry of VIFTAB. -/
def readVib (p : Params) (buf : Bytes) : Dec FormatFields := do
  let (vib, _) ← chain buf
  let e ← vifLookup p vib
  .ok (.vib vib e)

/-- A data field: its value and the number of bytes it took (R108, R109). -/
def readField (r : Bytes → Dec (DataValue × Bytes)) (buf : Bytes) : Dec FormatFields := do
  let (v, rest) ← r buf
  .ok (.data v (buf.length - rest.length))

/-- Lead-byte dispatch (R94): F-ACK, F-LONG, or UnexpectedByte. -/
def leadByteOf (b : Byte) : Dec FormatFields :=
  if b = 0xE5#8 then .ok (.lead false)
  else if b = 0x68#8 then .ok (.lead true)
  else .error .unexpectedByte

/-- F-ACK (R91): the single-character frame, one byte. -/
def execFAck (s : State) : Out := .next (s.respond (.frame .singleCharacter 1))

/-- F-SHORT (R92). -/
def execFShort (buf : Bytes) (s : State) : Out :=
  conclude (do let f ← Run.ofDec (decShortOf buf); .ok (.shortFrame f)) s

/-- F-LONG (R93). -/
def execFLong (buf : Bytes) (s : State) : Out :=
  conclude (do let (f, n) ← Run.ofDec (readLongFormat s.params.rxEnforceIntegrity buf); .ok (.frame f n)) s

/-- F-WL (R100). -/
def execFWl (buf : Bytes) (s : State) : Out := concludeFields (readWireless buf) s

/-- F-SA-LH (R101). -/
def execFSaLh (buf : Bytes) (s : State) : Out :=
  concludeFields (do let (a, _) ← readSaLh buf; .ok (.address a)) s

/-- F-SA-LL (R102). -/
def execFSaLl (buf : Bytes) (s : State) : Out :=
  concludeFields (do let (a, _) ← readSaLl buf; .ok (.address a)) s

/-- F-MAN (R103). -/
def execFMan (m0 m1 : Byte) (s : State) : Out := .next (s.respond (.fields (letterGroups m0 m1)))

/-- F-SH (R104). -/
def execFSh (buf : Bytes) (s : State) : Out :=
  concludeFields (do let (h, _) ← readShortHeader buf; .ok (.shortHeader h)) s

/-- F-LH (R105). -/
def execFLh (buf : Bytes) (s : State) : Out :=
  concludeFields (do let (a, h, _) ← readLongHeader buf; .ok (.longHeader a h)) s

/-- F-DIB (R106). -/
def execFDib (buf : Bytes) (s : State) : Out :=
  concludeFields (do let (dib, _) ← chain buf; .ok (.dib (dibFields dib))) s

/-- F-VIB (R107). -/
def execFVib (buf : Bytes) (s : State) : Out := concludeFields (readVib s.params buf) s

/-- F-DATA (R108): the data field that the code and the hint select. -/
def execFData (code : Byte) (hint : Hint) (buf : Bytes) (s : State) : Out :=
  concludeFields (readField (readData code.toNat hint) buf) s

/-- LVAR (R109): a variable-length field. -/
def execLvar (buf : Bytes) (s : State) : Out := concludeFields (readField readString buf) s

/-- SPECIAL (R110). -/
def execSpecial (b : Byte) (s : State) : Out := .next (s.respond (.fields (.special (specialByte b))))

/-- F-BCD (R111). -/
def execFBcd (b : Bytes) (s : State) : Out :=
  conclude (do let x ← bcdDecodeOp b; .ok (.fields (.bcd x))) s

/-- F-IV (R112). -/
def execFIv (raw : Bytes) (accessNumber : Byte) (s : State) : Out :=
  .next (s.respond (.bytes (ivOf raw accessNumber)))

/-- F-WILD (R113). -/
def execFWild (value : Bytes) (s : State) : Out :=
  .next (s.respond (.bytes (packWild (value.map BitVec.toNat))))

/-- C-FIELD (R95): the names of a control byte. -/
def execCField (c : Byte) (s : State) : Out :=
  .next (s.respond (.fields (.control (controlNames s.params.cSndUdSel c))))

/-- RSP-UD-TEST (R97). -/
def execRspUdTest (c : Byte) (s : State) : Out := .next (s.respond (.bit (isRspUd c)))

/-- REQ-UD2 (R96): the control byte for a frame count bit. -/
def execReqUd2 (f : Bool) (s : State) : Out := .next (s.respond (.byte (reqUd2Control f)))

/-- A-FIELD (R98): whether the address reaches the selected device. -/
def execAField (a : Byte) (s : State) : Out :=
  .next (s.respond (.fields (.addressField (a == Config.selAddr))))

/-- CI-FIELD (R99). -/
def execCiField (ci : Byte) (s : State) : Out := .next (s.respond (.fields (.ci (ciSent ci) (ciReceived ci))))

/-- LEAD-BYTE (R94). -/
def execLeadByte (b : Byte) (s : State) : Out := concludeFields (leadByteOf b) s

end Sys2Proof.Machine
end

