-- ==== Sys2Proof/Machine/Keys.lean ====
section
/-! DEFINITION. Session, key map and frame count bits (47_keys_fcb.md). -/

namespace Sys2Proof.Machine

/-- SES.OPEN (R400): reset. -/
def execSesOpen (kind : SessionKind) (port : Nat) (s : State) : Out :=
  .next ((s.openSession kind port).respond (.session kind port))

/-- The raw address KEY.ADD writes: the key must have 16 bytes (R402). -/
def keyAddAt (sa : SaRef) (key : Bytes) (s : State) : Run Bytes :=
  if key.length ≠ Config.keyLen then .error (.refused .badKeyOrIvLength)
  else do
    let a ← saAt s sa
    .ok a.raw

/-- KEY.ADD (R402): inserts or replaces. -/
def execKeyAdd (sa : SaRef) (key : Bytes) (s : State) : Out :=
  finish (keyAddAt sa key s) (fun raw => (s.setKeymap (KeyMap.add s.keymap raw key)).respond .none) s

/-- KEY.DEL (R403): removing a key that is not there does nothing. -/
def execKeyDel (sa : SaRef) (s : State) : Out :=
  finish (saAt s sa) (fun a => (s.setKeymap (KeyMap.del s.keymap a.raw)).respond .none) s

/-- KEY.GET (R404). -/
def execKeyGet (k : AddrKey) (s : State) : Out :=
  finish (rawAt s k) (fun raw => s.respond (.key (KeyMap.get s.keymap raw))) s

/-- FCB.GET (R406): "Only a wired session has the table" (log 18). -/
def execFcbGet (a : Byte) (s : State) : Out :=
  if s.kind = .wired then .next (s.respond (.bit (fcbGet s.fcb a))) else .fault .noFcbTable

end Sys2Proof.Machine
end

