-- ==== Sys2Proof/Machine/Dispatch.lean ====
section
/-! DEFINITION. The dispatch: one arm per request, each a direct call of its meaning. -/

namespace Sys2Proof.Machine

def exec (i : Instr) (s : State) : Host.Outcome State Fault Refusal :=
  match i with
  | .sesOpen kind port => Sys2Proof.Machine.execSesOpen kind port s
  | .keyAdd sa key => Sys2Proof.Machine.execKeyAdd sa key s
  | .keyDel sa => Sys2Proof.Machine.execKeyDel sa s
  | .keyGet k => Sys2Proof.Machine.execKeyGet k s
  | .fcbGet a => Sys2Proof.Machine.execFcbGet a s
  | .bcdDec b => Sys2Proof.Machine.execBcdDec b s
  | .bcdStr x => Sys2Proof.Machine.execBcdStr x s
  | .bcdInt x => Sys2Proof.Machine.execBcdInt x s
  | .bcdLong x => Sys2Proof.Machine.execBcdLong x s
  | .bcdEnc v n => Sys2Proof.Machine.execBcdEnc v n s
  | .manDec m0 m1 => Sys2Proof.Machine.execManDec m0 m1 s
  | .manEnc str => Sys2Proof.Machine.execManEnc str s
  | .saLh buf p => Sys2Proof.Machine.execSaLh buf p s
  | .saLl buf p => Sys2Proof.Machine.execSaLl buf p s
  | .saRaw x => Sys2Proof.Machine.execSaRaw x s
  | .saEq x y => Sys2Proof.Machine.execSaEq x y s
  | .saCmp x y => Sys2Proof.Machine.execSaCmp x y s
  | .saBuild man deviceId version deviceType order => Sys2Proof.Machine.execSaBuild man deviceId version deviceType order s
  | .drDec buf p remaining => Sys2Proof.Machine.execDrDec buf p remaining s
  | .drScale x => Sys2Proof.Machine.execDrScale x s
  | .aesDecrypt key iv buf p avail blockCount => Sys2Proof.Machine.execAesDecrypt key iv buf p avail blockCount s
  | .aesEncrypt key iv m => Sys2Proof.Machine.execAesEncrypt key iv m s
  | .vdsNew buf off len llAddr keys => Sys2Proof.Machine.execVdsNew buf off len llAddr keys s
  | .vdsDec v => Sys2Proof.Machine.execVdsDec v s
  | .encShort c a => Sys2Proof.Machine.execEncShort c a s
  | .encLong c a ci data => Sys2Proof.Machine.execEncLong c a ci data s
  | .chkSum bs => Sys2Proof.Machine.execChkSum bs s
  | .chkVerify f => Sys2Proof.Machine.execChkVerify f s
  | .decFrame buf => Sys2Proof.Machine.execDecFrame buf s
  | .decShort buf => Sys2Proof.Machine.execDecShort buf s
  | .txFrame f => Sys2Proof.Machine.execTxFrame f s
  | .rxFrame t => Sys2Proof.Machine.execRxFrame t s
  | .lnkRead a t => Sys2Proof.Machine.execLnkRead a t s
  | .lnkWrite a payload t => Sys2Proof.Machine.execLnkWrite a payload t s
  | .lnkReset a t => Sys2Proof.Machine.execLnkReset a t s
  | .lnkSelect sa t => Sys2Proof.Machine.execLnkSelect sa t s
  | .lnkDeselect sa t => Sys2Proof.Machine.execLnkDeselect sa t s
  | .lnkSelrd a payload t => Sys2Proof.Machine.execLnkSelrd a payload t s
  | .lnkRstrd a t => Sys2Proof.Machine.execLnkRstrd a t s
  | .lnkScansel wild t => Sys2Proof.Machine.execLnkScansel wild t s
  | .wlNew buf rssi => Sys2Proof.Machine.execWlNew buf rssi s
  | .wlDec m => Sys2Proof.Machine.execWlDec m s
  | .wlDeep m => Sys2Proof.Machine.execWlDeep m s
  | .scanInit mask => Sys2Proof.Machine.execScanInit mask s
  | .scanStep t => Sys2Proof.Machine.execScanStep t s
  | .scanAdv => Sys2Proof.Machine.execScanAdv s
  | .scanNarrow => Sys2Proof.Machine.execScanNarrow s
  | .scanRun mask t => Sys2Proof.Machine.execScanRun mask t s
  | .scanAbort => Sys2Proof.Machine.execScanAbort s
  | .scanPack value => Sys2Proof.Machine.execScanPack value s
  | .maskFlip m => Sys2Proof.Machine.execMaskFlip m s
  | .fAck => Sys2Proof.Machine.execFAck s
  | .fShort buf => Sys2Proof.Machine.execFShort buf s
  | .fLong buf => Sys2Proof.Machine.execFLong buf s
  | .fWl buf => Sys2Proof.Machine.execFWl buf s
  | .fSaLh buf => Sys2Proof.Machine.execFSaLh buf s
  | .fSaLl buf => Sys2Proof.Machine.execFSaLl buf s
  | .fMan m0 m1 => Sys2Proof.Machine.execFMan m0 m1 s
  | .fSh buf => Sys2Proof.Machine.execFSh buf s
  | .fLh buf => Sys2Proof.Machine.execFLh buf s
  | .fDib buf => Sys2Proof.Machine.execFDib buf s
  | .fVib buf => Sys2Proof.Machine.execFVib buf s
  | .fData code hint buf => Sys2Proof.Machine.execFData code hint buf s
  | .lvar buf => Sys2Proof.Machine.execLvar buf s
  | .special b => Sys2Proof.Machine.execSpecial b s
  | .fBcd b => Sys2Proof.Machine.execFBcd b s
  | .fIv raw accessNumber => Sys2Proof.Machine.execFIv raw accessNumber s
  | .fWild value => Sys2Proof.Machine.execFWild value s
  | .cField c => Sys2Proof.Machine.execCField c s
  | .rspUdTest c => Sys2Proof.Machine.execRspUdTest c s
  | .reqUd2 f => Sys2Proof.Machine.execReqUd2 f s
  | .aField a => Sys2Proof.Machine.execAField a s
  | .ciField ci => Sys2Proof.Machine.execCiField ci s
  | .leadByte b => Sys2Proof.Machine.execLeadByte b s

end Sys2Proof.Machine
end

