-- ==== Sys2Proof/Machine/Step.lean ====
section
/-! DEFINITION. One step: the oldest input is taken and carried out whole (20_memory.md R73). A request of the CMD port
is decoded and executed; the transactions of the WL-IN port are WL.NEW and the two events that MBC forwards
unchanged (60_exceptions.md R480). With nothing waiting the session waits (70_reset_and_hazards.md R520; log 4). -/

namespace Sys2Proof.Machine

/-- One step of the machine. -/
def step (s : State) : Host.Outcome State Fault Refusal :=
  match s.inp with
  | [] => .next s
  | .request bs :: rest =>
    match decode bs with
    | .ok (i, _) => exec i { s with inp := rest }
    | .error e => .refused (.undecodable e)
  | .wlDeliver buf rssi :: rest => exec (.wlNew buf rssi) { s with inp := rest }
  | .wlDiscarded bs :: rest => forwardEvent (.onDiscardedBytes bs) { s with inp := rest }
  | .wlStopped cause :: rest => forwardEvent (.onStoppedListening cause) { s with inp := rest }

/-- `s` with the request of a table word waiting as the next input (log 4): the very next step runs it. -/
def State.withFetchWord (s : State) (nbits w : Nat) : State :=
  { s with inp := [.request (tableBytes nbits w)] }

end Sys2Proof.Machine
end

