-- ==== Sys2Proof/Safety.lean ====
section
/-! DEFINITION. The terms claims are stated in: what a receive may change, the invariants of a run, which operation may
write a table or end in which failure, and the layouts of operands. -/

namespace Sys2Proof.Machine

/-! ## Receiving -/

/-- `t` is `s` after reads of the transport: bytes were taken from the front of its stream, a SCAN.ABORT may have
arrived meanwhile (60_exceptions.md R482), and nothing else changed (45_wired_frame.md R340). -/
structure State.Received (s t : State) : Prop where
  taken : ∃ es, s.tpIn = es ++ t.tpIn
  scanner : t.scanner = s.scanner ∨ t.scanner = s.scanner.abort
  others : t = { s with tpIn := t.tpIn, scanner := t.scanner }

/-! ## Invariants -/

/-- The shape of the scanner between operations (48_scanner.md R420, R426): `pos` in `0..7`, 16 nibbles. -/
def Scanner.shaped (sc : Scanner) : Prop := sc.pos ≤ Config.scanMaxPos ∧ sc.value.length = Config.scanNibbles

/-- No device is in `found` twice (R434, R441). -/
def Scanner.distinct (sc : Scanner) : Prop := sc.found.Pairwise (fun a b => a.raw ≠ b.raw)

/-- The invariant of R420 and R432 from SCAN.INIT on: every decided nibble is in `0..10` while the scan has not stopped,
and every position from 8 on is a wildcard. -/
def Scanner.decided (sc : Scanner) : Prop :=
  sc.shaped ∧ (∀ k, 8 ≤ k → k < 16 → sc.value[k]? = some 15) ∧
    (sc.stop = false → ∀ k, k ≤ sc.pos → sc.value.getD k 0 ≤ 10)

/-- What holds between operations in every run: KEYMAP is canonical (log 8), LINK is Idle (45_wired_frame.md R346), LASTTX is
no single-character frame (R323, R342), the scanner has its shape and finds no device twice. -/
structure State.Inv (s : State) : Prop where
  keymap : KeyMap.wf s.keymap = true
  link : s.link = .idle
  lastTx : ∀ f, s.lastTx = some f → f.head? ≠ some 0xE5#8
  shaped : s.scanner.shaped
  distinct : s.scanner.distinct

/-- A SecondaryAddress as SA.LH and SA.LL make it (10_state.md R28): 3 characters, a device id of 4 bytes, 8 raw bytes. -/
def SecondaryAddress.whole (a : SecondaryAddress) : Prop :=
  a.manufacturerId.length = 3 ∧ a.deviceId.bytes.length = 4 ∧ a.raw.length = Config.saLen

/-- Every address a state holds, wherever it stands. -/
def State.addresses (s : State) : List SecondaryAddress :=
  s.addrs ++ s.scanner.found ++ s.vdss.flatMap (fun v => v.llAddr.toList ++ v.secondaryAddress.toList) ++
    s.msgs.flatMap (fun m => m.secondaryAddress.toList)

/-! ## Who writes the tables (47_keys_fcb.md R408) -/

/-- The operations that may write FCB. -/
def writesFcb : Instr → Bool
  | .sesOpen _ _ | .lnkRead _ _ | .lnkReset _ _ | .scanStep _ | .scanRun _ _ => true
  | _ => false

/-- The operations that may write KEYMAP. -/
def writesKeymap : Instr → Bool
  | .sesOpen _ _ | .keyAdd _ _ | .keyDel _ => true
  | _ => false

/-- The operations that transmit (45_wired_frame.md R360; 48_scanner.md R436). -/
def transmits : Instr → Bool
  | .txFrame _ | .lnkRead _ _ | .lnkWrite _ _ _ | .lnkReset _ _ | .lnkSelect _ _ | .lnkDeselect _ _
  | .lnkSelrd _ _ _ | .lnkRstrd _ _ | .lnkScansel _ _ | .scanStep _ | .scanRun _ _ => true
  | _ => false

/-- The operations that look at LINK first: the transmit, receive and link operations of 45_wired_frame.md sections 4 and 5,
and SCAN.STEP, which is made of them (R27, R320, R346; log 22). -/
def looksAtLink : Instr → Bool
  | .txFrame _ | .rxFrame _ | .lnkRead _ _ | .lnkWrite _ _ _ | .lnkReset _ _ | .lnkSelect _ _ | .lnkDeselect _ _ | .lnkSelrd _ _ _
  | .lnkRstrd _ _ | .lnkScansel _ _ | .scanStep _ => true
  | _ => false

/-- A short frame (30_encoding.md R92). -/
def shortFrame (c a : Byte) : Bytes := [0x10#8, c, a, c + a, 0x16#8]

/-- The frames MBC sends by itself, row by row (45_wired_frame.md R360): REQ_UD2 and SND_NKE; LNK.WRITE and LNK.SELRD;
LNK.RSTRD; the select, deselect and scan-selection frames, to `0xFD` with 8 address bytes. -/
def mbcFrame (p : Params) (f : Bytes) : Prop :=
  (∃ c a, (c = 0x7B#8 ∨ c = 0x5B#8 ∨ c = 0x40#8) ∧ f = shortFrame c a) ∨
  (∃ c a data, (c = 0x73#8 ∨ c = p.cSndUdSel) ∧ data.length ≤ Config.maxData ∧ f = encLongFrame c a 0x51#8 data) ∨
  (∃ a, f = encLongFrame p.cSndUdSel a 0x50#8 []) ∨
  ∃ ci addr, (ci = 0x52#8 ∨ ci = 0x56#8) ∧ addr.length = Config.saLen ∧ f = encLongFrame p.cSndUdSel Config.selAddr ci addr

/-- `f` is a frame that the operation may transmit when it starts in `s`: its own row of R360, or its operand (R336). A scan
sends scan selections, and reads of `0xFD` (48_scanner.md R434, R436). -/
def rowFrame (s : State) (f : Bytes) : Instr → Prop
  | .txFrame g => f = g
  | .lnkRead a _ => f = shortFrame (if fcbGet s.fcb a then 0x7B#8 else 0x5B#8) a
  | .lnkWrite a payload _ => f = encLongFrame 0x73#8 a 0x51#8 payload
  | .lnkReset a _ => f = shortFrame 0x40#8 a
  | .lnkSelect sa _ => ∃ x, saAt s sa = .ok x ∧ f = encLongFrame s.params.cSndUdSel 0xFD#8 0x52#8 x.raw
  | .lnkDeselect sa _ => ∃ x, saAt s sa = .ok x ∧ f = encLongFrame s.params.cSndUdSel 0xFD#8 0x56#8 x.raw
  | .lnkSelrd a payload _ => f = encLongFrame s.params.cSndUdSel a 0x51#8 payload
  | .lnkRstrd a _ => f = encLongFrame s.params.cSndUdSel a 0x50#8 []
  | .lnkScansel wild _ => f = encLongFrame s.params.cSndUdSel 0xFD#8 0x52#8 wild
  | .scanStep _ | .scanRun _ _ =>
    (∃ wild, wild.length = 8 ∧ f = encLongFrame s.params.cSndUdSel 0xFD#8 0x52#8 wild) ∨
      f = shortFrame 0x7B#8 0xFD#8 ∨ f = shortFrame 0x5B#8 0xFD#8
  | _ => False

/-! ## Which operation can end in which failure (60_exceptions.md R470) -/

/-- The failures of RX.FRAME. -/
def receiveCauses : List Cause := [.noResponse, .incompleteResponse, .unexpectedByte, .malformedFrame]

/-- The failures of VDS.DEC. -/
def vdsCauses : List Cause :=
  [.bcdInvalidNibble, .truncatedBuffer, .unrecognisedDifVif, .unsupportedEncryptionMode, .manufacturerSpecificCI,
   .unsupportedCI, .missingKey, .wrongKey, .blockCountExceedsPayload, .missingLinkLayerAddress]

/-- The failures of an operation, by the table of R470; the format rows of log 19 fail as the operations they share
their layouts with. The row of AES.DECRYPT is that of a window; a triple that is none fails as 20_memory.md R65 says (log
20). -/
def causesOf : Instr → List Cause
  | .bcdDec _ | .fBcd _ => [.bcdInvalidNibble]
  | .saLh _ _ | .saLl _ _ | .fSaLh _ | .fSaLl _ | .fLh _ => [.truncatedBuffer, .bcdInvalidNibble]
  | .drDec _ _ _ | .fData _ _ _ => [.truncatedBuffer, .unrecognisedDifVif, .bcdInvalidNibble]
  | .fVib _ | .lvar _ => [.truncatedBuffer, .unrecognisedDifVif]
  | .fSh _ | .fDib _ => [.truncatedBuffer]
  | .aesDecrypt _ _ buf p avail _ => if buf.length < p + avail then [.truncatedBuffer] else [.blockCountExceedsPayload]
  | .vdsDec _ => vdsCauses
  | .decFrame _ | .fLong _ => [.truncatedBuffer, .unexpectedByte, .malformedFrame]
  | .decShort _ | .fShort _ => [.truncatedBuffer, .unexpectedByte]
  | .leadByte _ => [.unexpectedByte]
  | .rxFrame _ => receiveCauses
  | .lnkRead _ _ => receiveCauses ++ [.unexpectedResponse, .wrongMessageType] ++ vdsCauses
  | .lnkWrite _ _ _ | .lnkReset _ _ | .lnkSelect _ _ | .lnkDeselect _ _ | .lnkSelrd _ _ _ | .lnkRstrd _ _ =>
    receiveCauses ++ [.unexpectedResponse]
  | .wlDec _ | .fWl _ => [.truncatedBuffer, .wirelessLengthExceedsBuffer, .bcdInvalidNibble]
  | .wlDeep _ => [.truncatedBuffer, .wirelessLengthExceedsBuffer, .bcdInvalidNibble] ++ vdsCauses
  | _ => []

/-! ## Layouts of operands -/

/-- A packed decimal (40_bcd.md R141): at least one byte, every nibble a decimal digit but for the sentinel `0xF` in the
most significant nibble of the last byte. -/
def PackedDecimal (b : Bytes) : Prop :=
  b ≠ [] ∧ ∀ k, k < b.length →
    lo (byteAt b k) ≤ 9 ∧ (hi (byteAt b k) ≤ 9 ∨ (k + 1 = b.length ∧ hi (byteAt b k) = 15))

/-- The first `n` bytes of `d` are a whole data field of a code under a hint, by the rows of 42_data_record.md R196: no data,
an integer or a float, packed decimals, a string behind its `LVAR`; under DATE a date and nothing else (30_encoding.md R120,
93 U20; log 34). -/
def DataField (code : Nat) (hint : Hint) (d : Bytes) (n : Nat) : Prop :=
  n ≤ d.length ∧
  (hint = .numeric ∧ (code, n) ∈ [(0x0, 0), (0x8, 0)] ∨
   hint = .numeric ∧ (code, n) ∈ [(0x1, 1), (0x2, 2), (0x3, 3), (0x4, 4), (0x5, 4), (0x6, 6), (0x7, 8)] ∨
   hint = .numeric ∧ (code, n) ∈ [(0x9, 1), (0xA, 2), (0xB, 3), (0xC, 4), (0xE, 6)] ∧ PackedDecimal (d.take n) ∨
   hint = .numeric ∧ code = 0xD ∧ (byteAt d 0).toNat < 0xC0 ∧ n = 1 + (byteAt d 0).toNat ∨
   hint = .date ∧ (code, n) ∈ [(0x2, 2), (0x4, 4)])

/-- An upper-case letter (41_secondary_address.md R163). -/
def UpperCase (c : Char) : Prop := 65 ≤ c.toNat ∧ c.toNat ≤ 90

/-- The characters of a mask (48_scanner.md R424). -/
def maskChars : List Char := ['0', '1', '2', '3', '4', '5', '6', '7', '8', '9', 'f', 'F']

/-- A block of bytes of which every one but the last has bit 7 set (30_encoding.md R106, R107). -/
def Chained : Bytes → Prop
  | [] => False
  | [b] => b.toNat < 128
  | b :: bs => 128 ≤ b.toNat ∧ Chained bs

/-- The value of a finite binary32 bit pattern (42_data_record.md R199). -/
def float32Value (b : BitVec 32) : ℚ :=
  let e := bitsOf b.toNat 23 8
  let f := bitsOf b.toNat 0 23
  let m : ℚ := if e = 0 then (f : ℚ) * 2 ^ (-149 : Int) else ((2 ^ 23 + f : Nat) : ℚ) * 2 ^ ((e : Int) - 150)
  if b.msb then -m else m

/-- The value of a finite binary64 bit pattern. -/
def float64Value (b : BitVec 64) : ℚ :=
  let e := bitsOf b.toNat 52 11
  let f := bitsOf b.toNat 0 52
  let m : ℚ := if e = 0 then (f : ℚ) * 2 ^ (-1074 : Int) else ((2 ^ 52 + f : Nat) : ℚ) * 2 ^ ((e : Int) - 1075)
  if b.msb then -m else m

/-- The bytes of a frame as the transport delivers them. -/
def delivered (f : Bytes) : List TpEvent := f.map TpEvent.byte

/-- The transport delivers nothing to the next read: it times out (45_wired_frame.md R344, log 5). -/
def Silent (es : List TpEvent) : Prop := es = [] ∨ ∃ es', es = .timeout :: es'

end Sys2Proof.Machine
end

