-- ==== Sys2Proof/Certificates/Slice0/Obligations.lean ====
section
/-! DEFINITION. The statements for the provers. Each says in its docstring what it rests on: a rule `R<n>` of spec/ where
it states that rule whole, a decision `D<n>` of 92_eei_decisions.md where the spec marks the point as its own, a log entry
where the model chose. -/

open Sys2Proof Sys2Proof.Machine

/-! ## Requests as bytes, and the step -/

/-- For every well-formed request, decoding its encoding, whatever bytes follow, gives the request back and leaves the
bytes that follow; and what decodes is a well-formed request that took at least one byte off the front. The request bytes
are the model's own (log 3). -/
def Obligations.DecodingUndoesEncoding : Prop :=
  (∀ (i : Instr) (rest : Bytes), i.wf = true → decode (encode i ++ rest) = .ok (i, rest)) ∧
  (∀ (bs rest : Bytes) (i : Instr), decode bs = .ok (i, rest) → i.wf = true ∧ ∃ used, used ≠ [] ∧ bs = used ++ rest)

/-- Request bytes written out by hand decode to the requests they stand for: the operation codes of the operation map, the
operands as log 3 lays them out; a code of no row is an error. -/
def Obligations.WrittenRequestsDecode : Prop :=
  decode [0x50, 0x01, 0x07] = .ok (.lnkRead 0x01#8 7, []) ∧
  decode [0x51, 0xFD, 0x02, 0x08, 0x06, 0x00] = .ok (.lnkWrite 0xFD#8 [0x08#8, 0x06#8] 0, []) ∧
  decode [0x14, 0x81, 0x01, 0x03] = .ok (.bcdEnc (-65) 4, []) ∧
  decode [0x30, 0x01, 0x78, 0x00, 0x01, 0x01, 0x02, 0x05, 0x01] = .ok (.vdsNew [0x78#8] 0 1 (some (.ofMsg 5)) true, []) ∧
  decode [0x7B] = .ok (.reqUd2 true, []) ∧ decode [0x5B] = .ok (.reqUd2 false, []) ∧
  decode [0x05] = .error (.unknownCode 0x05#8)

/-- A step takes the oldest input. A request of the CMD port that decodes to a well-formed instruction runs as exec of
that instruction in the state without the input; one that does not decode is refused (log 27). A delivered buffer is
WL.NEW (what the CMD port then holds: log 26); the driver's two other transactions, WlDiscarded and WlStopped, are
forwarded unchanged as events and change nothing else (the spec's decision D51), nothing is emitted without a listener,
and a wired session has no WL-IN port (log 18). With no input the session waits (log 4). -/
def Obligations.StepRunsTheDecodedRequest : Prop :=
  ∀ (s : State) (rest : List Input),
    (∀ bs i left, s.inp = .request bs :: rest → decode bs = .ok (i, left) →
      step s = exec i { s with inp := rest }) ∧
    (∀ i junk, i.wf = true → s.inp = .request (encode i ++ junk) :: rest → step s = exec i { s with inp := rest }) ∧
    (∀ bs e, s.inp = .request bs :: rest → decode bs = .error e → step s = .refused (.undecodable e)) ∧
    (∀ buf rssi, s.inp = .wlDeliver buf rssi :: rest → step s = exec (.wlNew buf rssi) { s with inp := rest }) ∧
    (∀ (stopped : Bool) x, s.inp = (if stopped then .wlStopped x else .wlDiscarded x) :: rest →
      (s.kind = .wireless → step s = .next { s with
        inp := rest
        evts := if s.listener then s.evts ++ [if stopped then .onStoppedListening x else .onDiscardedBytes x]
                else s.evts }) ∧
      (s.kind = .wired → step s = .fault .noWirelessInput)) ∧
    (s.inp = [] → step s = .next s)

/-! ## Invariants of every step -/

/-- Every step keeps the invariant: KEYMAP is canonical (log 8) with keys of 16 bytes, LINK is Idle between operations,
LASTTX is no single-character frame (log 31), the scanner has 16 nibbles and `pos` in 0 to 7, and no device is in `found`
twice. It is claimed for every state that meets
it, whatever waits at the inputs and whatever the transport does. -/
def Obligations.EveryStepKeepsTheInvariant : Prop :=
  ∀ s t : State, s.Inv → step s = .next t → t.Inv

/-- Every step keeps the scanner's nibbles as a scan makes them: `pos` in 0 to 7, positions 8 to 15 wildcards, and while the
scan has not stopped every nibble up to `pos` in 0 to 10. SCAN.INIT and SCAN.RUN establish it, and every operation but
SES.OPEN keeps it, under the default SCAN_INIT_ZERO (the spec's decision D40). -/
def Obligations.ScannerNibblesStayDecided : Prop :=
  ∀ (i : Instr) (s t : State), s.params.scanInitZero = true → exec i s = .next t →
    ((∀ kind port, i ≠ .sesOpen kind port) → s.scanner.decided → t.scanner.decided) ∧
    (∀ m τ, i = .scanInit m ∨ i = .scanRun m τ → t.scanner.decided)

/-- What reset leaves: every frame count bit 1, no key, no frame transmitted, LINK Idle, no scan running, no object (the
spec's decision D41 for all but the frame count bits); the invariants of a step hold there; and SES.OPEN of a wired session
leads back to it. The port number, and that reset is a wired session, are log 2. -/
def Obligations.ResetIsSessionStart : Prop :=
  (∀ a, fcbGet State.reset.fcb a = true) ∧ (∀ raw, KeyMap.get State.reset.keymap raw = none) ∧
  State.reset.lastTx = none ∧ State.reset.link = .idle ∧ State.reset.scanner.running = false ∧
  (∀ n : Nat, State.reset.bcds[n]? = none ∧ State.reset.addrs[n]? = none ∧ State.reset.recs[n]? = none ∧
    State.reset.vdss[n]? = none ∧ State.reset.msgs[n]? = none) ∧
  State.reset.Inv ∧ (∀ a ∈ State.reset.addresses, a.whole) ∧
  exec (.sesOpen .wired 0) State.reset = .next (State.reset.respond (.session .wired 0))

/-- LINK is Idle before and after every link operation, SCAN.STEP, TX.FRAME and RX.FRAME that gives a next state, whether it
ended in a result or in an exception; one that is asked for while LINK is AwaitingResponse is refused (TX.FRAME and
RX.FRAME: log 22), and on a wireless session there is no transport to use (log 18). -/
def Obligations.LinkIsIdleAfterEveryLinkOperation : Prop :=
  ∀ (i : Instr) (s : State), looksAtLink i = true →
    (∀ t, exec i s = .next t → s.kind = .wired ∧ s.link = .idle ∧ t.link = .idle) ∧
    (s.kind = .wired → s.link = .awaitingResponse → exec i s = .refused .linkBusy) ∧
    (s.kind = .wireless → exec i s = .fault .noTransport)

/-- Every address the state holds, wherever it stands, has 3 characters, a device id of 4 bytes and 8 raw bytes, and every
address KEYMAP lists is 8 bytes long: every step keeps this. -/
def Obligations.EveryStepKeepsAddressesWhole : Prop :=
  ∀ s t : State, ((∀ a ∈ s.addresses, a.whole) ∧ ∀ e ∈ s.keymap, e.1.length = 8) → step s = .next t →
    (∀ a ∈ t.addresses, a.whole) ∧ ∀ e ∈ t.keymap, e.1.length = 8

/-- Every write of the two tables, in one place: FCB is written by SES.OPEN, LNK.READ and LNK.RESET (of their address only)
and SCAN.STEP and SCAN.RUN (of 0xFD only), KEYMAP by SES.OPEN, KEY.ADD and KEY.DEL; every other operation leaves them. -/
def Obligations.TablesHaveNoOtherWriters : Prop :=
  ∀ (i : Instr) (s t : State), exec i s = .next t →
    (writesFcb i = false → t.fcb = s.fcb) ∧ (writesKeymap i = false → t.keymap = s.keymap) ∧
    (∀ a τ, i = .lnkRead a τ ∨ i = .lnkReset a τ → ∀ b, b ≠ a → fcbGet t.fcb b = fcbGet s.fcb b) ∧
    (∀ m τ, i = .scanStep τ ∨ i = .scanRun m τ → ∀ b, b ≠ 0xFD#8 → fcbGet t.fcb b = fcbGet s.fcb b)

/-- The tables survive every failure: after an exception of any operation KEYMAP is exactly what it was, and FCB is what it
was but for the one toggle LNK.READ makes before it receives (R410); the scanner's position, mask and list of found
addresses are what they were. -/
def Obligations.TablesSurviveEveryFailure : Prop :=
  ∀ (i : Instr) (s t : State) (c : Cause), exec i s = .next t → t.resp = some (.exception c) →
    t.keymap = s.keymap ∧
    ((∀ a τ, i ≠ .lnkRead a τ) → t.fcb = s.fcb) ∧
    (∀ a τ, i = .lnkRead a τ →
      fcbGet t.fcb a = !fcbGet s.fcb a ∧ ∀ b, b ≠ a → fcbGet t.fcb b = fcbGet s.fcb b) ∧
    t.scanner.pos = s.scanner.pos ∧ t.scanner.value = s.scanner.value ∧ t.scanner.found = s.scanner.found

/-- No operation ends in a failure that the table of failures does not give it; AES.DECRYPT over a triple that is no window
ends in TruncatedBuffer only, and over a window in its own only (log 20). The format rows fail as the operations they share their layouts with (log 19). -/
def Obligations.OperationsFailOnlyAsTheTableSays : Prop :=
  ∀ (i : Instr) (s t : State) (c : Cause), exec i s = .next t → t.resp = some (.exception c) → c ∈ causesOf i

/-- Every operation that gives a next state answers it: the CMD port returns a result or an exception of this operation,
whatever stood there before (log 26). None changes a parameter, attaches or detaches a listener (log 15) or touches the
inputs that still wait, and none but SES.OPEN changes the session's kind and port. -/
def Obligations.EveryOperationAnswers : Prop :=
  ∀ (i : Instr) (s t : State) (r : Option Response), exec i s = .next t →
    t.resp ≠ none ∧ exec i { s with resp := r } = .next t ∧
    t.params = s.params ∧ t.listener = s.listener ∧ t.inp = s.inp ∧
    ((∀ kind port, i ≠ .sesOpen kind port) → t.kind = s.kind ∧ t.port = s.port)

/-- MBC sends no other frame (the spec's decision D49): whatever an operation transmits is a frame of its own row of the
table of link operations, with the control byte, address, CI and data of that row (those of the select family: decisions
D31, D32, D47), or the operand of TX.FRAME; a link operation and TX.FRAME transmit exactly one; an operation that is
neither, nor a scan, transmits nothing; nothing sent is taken back. With a wildcard of 8 bytes and addresses of 8 raw
bytes, every frame but TX.FRAME's operand has the shape of a row of the table. A single-character frame is never sent, by
TX.FRAME neither (R91, R323; log 31). -/
def Obligations.OnlyFramesOfTheTableAreSent : Prop :=
  ∀ (i : Instr) (s t : State), exec i s = .next t →
    ∃ sent, t.tpOut = s.tpOut ++ sent ∧ (∀ f ∈ sent, rowFrame s f i) ∧ (transmits i = false → sent = []) ∧
      (transmits i = true → (∀ τ, i ≠ .scanStep τ) → (∀ m τ, i ≠ .scanRun m τ) → sent.length = 1) ∧
      (∀ f ∈ sent, f.head? ≠ some 0xE5#8) ∧
      ((∀ f, i ≠ .txFrame f) → i.wf = true → (∀ a ∈ s.addresses, a.whole) → ∀ f ∈ sent, mbcFrame s.params f)

/-- What is made stays as it was made: after any operation but SES.OPEN every Bcd, address and record object, and every VDS
that was decoded or had failed, is the same, and every message has the same buffer (log 16). -/
def Obligations.ObjectsAreImmutable : Prop :=
  ∀ (i : Instr) (s t : State), (∀ kind port, i ≠ .sesOpen kind port) → exec i s = .next t →
    (∀ (n : Nat) (x : Bcd), s.bcds[n]? = some x → t.bcds[n]? = some x) ∧
    (∀ (n : Nat) (x : SecondaryAddress), s.addrs[n]? = some x → t.addrs[n]? = some x) ∧
    (∀ (n : Nat) (x : DataRecord), s.recs[n]? = some x → t.recs[n]? = some x) ∧
    (∀ (n : Nat) (v : Vds), s.vdss[n]? = some v → v.phase ≠ .raw → t.vdss[n]? = some v) ∧
    (∀ (n : Nat) (m : WlMessage), s.msgs[n]? = some m → ∃ m', t.msgs[n]? = some m' ∧ m'.buf = m.buf ∧ m'.rssi = m.rssi)

/-- Reads of the transport only take from the front of its stream: an operation that does not receive takes nothing, and
nothing is put back (the stream as a list of events is log 5). -/
def Obligations.TransportIsReadForwardOnly : Prop :=
  ∀ (i : Instr) (s t : State), exec i s = .next t →
    ∃ taken, s.tpIn = taken ++ t.tpIn ∧
      (transmits i = false → (∀ τ, i ≠ .rxFrame τ) → taken = []) ∧ (∀ f, i = .txFrame f → taken = [])

/-! ## Session, keys, frame count bits -/

/-- SES.OPEN always completes: the session has its kind and port, no key and no object; a wired one has every frame count
bit 1, nothing transmitted, LINK Idle and no scan (the spec's decision D41). It sends nothing, reads nothing, emits
nothing and changes no parameter. -/
def Obligations.SesOpenStartsAFreshSession : Prop :=
  ∀ (kind : SessionKind) (port : Nat) (s : State), ∃ t, exec (.sesOpen kind port) s = .next t ∧
    t.resp = some (.result (.session kind port)) ∧ t.kind = kind ∧ t.port = port ∧
    (∀ raw, KeyMap.get t.keymap raw = none) ∧
    (kind = .wired → (∀ a, fcbGet t.fcb a = true) ∧ t.lastTx = none ∧ t.link = .idle ∧ t.scanner.running = false) ∧
    t.bcds = [] ∧ t.addrs = [] ∧ t.recs = [] ∧ t.vdss = [] ∧ t.msgs = [] ∧
    t.params = s.params ∧ t.tpIn = s.tpIn ∧ t.tpOut = s.tpOut ∧ t.evts = s.evts ∧ t.listener = s.listener ∧
    t.inp = s.inp ∧ t.free = s.free

/-- KEY.ADD with a key of 16 bytes and KEY.DEL complete: the address has that key, or none; every other address has what
it had; nothing else changes but the CMD response. A key of another length is refused. Deleting a key that is not there
does nothing (replacement and deletion: the spec's decision D45). KEYMAP is in its canonical form (log 8), which every
step keeps. -/
def Obligations.KeysAreAddedAndRemoved : Prop :=
  ∀ (sa : SaRef) (key : Bytes) (a : SecondaryAddress) (s : State), KeyMap.wf s.keymap = true → saAt s sa = .ok a →
    (key.length = 16 → ∃ m, exec (.keyAdd sa key) s = .next { s with keymap := m, resp := some (.result .none) } ∧
      KeyMap.get m a.raw = some key ∧ (∀ raw, raw ≠ a.raw → KeyMap.get m raw = KeyMap.get s.keymap raw)) ∧
    (key.length ≠ 16 → exec (.keyAdd sa key) s = .refused .badKeyOrIvLength) ∧
    (∃ m, exec (.keyDel sa) s = .next { s with keymap := m, resp := some (.result .none) } ∧
      KeyMap.get m a.raw = none ∧ (∀ raw, raw ≠ a.raw → KeyMap.get m raw = KeyMap.get s.keymap raw) ∧
      (KeyMap.get s.keymap a.raw = none → m = s.keymap))

/-- KEY.GET and FCB.GET (the spec's own accessor, decision D34) complete with what the table holds and write nothing.
After KEY.ADD, KEY.GET of the same address, by reference or by its 8 raw bytes, gives the key. FCB.GET needs a wired
session (log 18). -/
def Obligations.KeyGetAndFcbGetRead : Prop :=
  (∀ (k : AddrKey) (raw : Bytes) (s : State), rawAt s k = .ok raw →
    exec (.keyGet k) s = .next (s.respond (.key ((s.keymap.find? (fun e => e.1 == raw)).map Prod.snd)))) ∧
  (∀ (sa : SaRef) (a : SecondaryAddress) (key : Bytes) (s t : State), saAt s sa = .ok a →
    exec (.keyAdd sa key) s = .next t → ∀ k, k = .sa sa ∨ k = .raw a.raw →
      exec (.keyGet k) t = .next (t.respond (.key (some key)))) ∧
  (∀ (a : Byte) (s : State), s.kind = .wired →
    exec (.fcbGet a) s = .next (s.respond (.bit (s.fcb.getLsbD a.toNat)))) ∧
  (∀ (a : Byte) (s : State), s.kind = .wireless → exec (.fcbGet a) s = .fault .noFcbTable)

/-! ## BCD and SA units -/

/-- BCD.DEC (R141): of a packed decimal, an object with the bytes, the sign of the sentinel and the digits from the least
significant nibble up; of any other byte string BcdInvalidNibble; of no byte a refusal. Nothing else changes. -/
def Obligations.BcdDecReadsPackedDecimals : Prop :=
  ∀ (b : Bytes) (s : State),
    (b = [] → exec (.bcdDec b) s = .refused .emptyBcd) ∧
    (b ≠ [] → ¬PackedDecimal b → exec (.bcdDec b) s = .next (s.raise .bcdInvalidNibble)) ∧
    (PackedDecimal b → ∃ x : Bcd,
      exec (.bcdDec b) s = .next ((s.addBcd x).respond (.bcd s.bcds.length)) ∧
      x.bytes = b ∧ x.negative = (hi (byteAt b (b.length - 1)) == 15) ∧
      x.digits.length = (if x.negative then 2 * b.length - 1 else 2 * b.length) ∧
      ∀ k, k < b.length → x.digits[2 * k]? = some (lo (byteAt b k)) ∧
        (hi (byteAt b k) ≤ 9 → x.digits[2 * k + 1]? = some (hi (byteAt b k))))

/-- BCD.STR, BCD.INT and BCD.LONG of any Bcd: the value is the sum of digit times power of ten, with the sign; every digit
is printed (the spec's decision D6); a value outside 32 (decision D5) or 64 bits is refused; nothing but the CMD response
changes. -/
def Obligations.BcdValuesAreExact : Prop :=
  ∀ (x : BcdRef) (b : Bcd) (s : State) (v : Int), bcdAt s x = .ok b →
    v = (if b.negative then -1 else 1) * ((List.range b.digits.length).map (fun j => b.digits.getD j 0 * 10 ^ j)).sum →
    exec (.bcdStr x) s = .next (s.respond (.text
      ((if b.negative then ['-'] else []) ++ b.digits.reverse.map (fun d => Char.ofNat ('0'.toNat + d))))) ∧
    (-2147483648 ≤ v ∧ v ≤ 2147483647 → ∃ r : BitVec 32,
      exec (.bcdInt x) s = .next (s.respond (.int32 r)) ∧ r.toInt = v) ∧
    (v < -2147483648 ∨ 2147483647 < v → exec (.bcdInt x) s = .refused .intOverflow) ∧
    (-9223372036854775808 ≤ v ∧ v ≤ 9223372036854775807 → ∃ r : BitVec 64,
      exec (.bcdLong x) s = .next (s.respond (.int64 r)) ∧ r.toInt = v) ∧
    (v < -9223372036854775808 ∨ 9223372036854775807 < v → exec (.bcdLong x) s = .refused .longOverflow)

/-- BCD.ENC of a value that fits `n` bytes completes with `n` bytes that BCD.DEC reads back as the same value; a value that
does not fit is refused (the spec's decision D7). -/
def Obligations.BcdEncIsTheInverseOfBcdDec : Prop :=
  ∀ (v : Int) (n : Nat) (s : State), 1 ≤ n →
    (0 ≤ v ∧ v < 10 ^ (2 * n) ∨ v < 0 ∧ -v < 10 ^ (2 * n - 1) → ∃ (b : Bytes) (x : Bcd),
      exec (.bcdEnc v n) s = .next (s.respond (.bytes b)) ∧ b.length = n ∧ PackedDecimal b ∧
      exec (.bcdDec b) s = .next ((s.addBcd x).respond (.bcd s.bcds.length)) ∧ bcdValue x = v) ∧
    (10 ^ (2 * n) ≤ v ∨ 10 ^ (2 * n - 1) ≤ -v → exec (.bcdEnc v n) s = .refused .bcdEncodeRange)

/-- MAN.DEC is total: three characters of code 64 to 95, the 5-bit groups of the little-endian word, most significant first;
bit 15 is ignored (the spec's decision D8 for the groups that are no letter). It undoes MAN.ENC of three upper-case
letters. -/
def Obligations.ManDecIsTotal : Prop :=
  (∀ (m0 m1 : Byte) (s : State), ∃ c0 c1 c2 : Char,
    exec (.manDec m0 m1) s = .next (s.respond (.text [c0, c1, c2])) ∧
    64 ≤ c0.toNat ∧ c0.toNat ≤ 95 ∧ 64 ≤ c1.toNat ∧ c1.toNat ≤ 95 ∧ 64 ≤ c2.toNat ∧ c2.toNat ≤ 95 ∧
    (m0.toNat + 256 * m1.toNat) % 32768 = (c0.toNat - 64) * 1024 + (c1.toNat - 64) * 32 + (c2.toNat - 64) ∧
    exec (.manDec m0 (m1 ^^^ 0x80#8)) s = exec (.manDec m0 m1) s) ∧
  (∀ (c0 c1 c2 : Char) (m0 m1 : Byte) (s : State), UpperCase c0 → UpperCase c1 → UpperCase c2 →
    exec (.manEnc [c0, c1, c2]) s = .next (s.respond (.bytes [m0, m1])) →
    exec (.manDec m0 m1) s = .next (s.respond (.text [c0, c1, c2])))

/-- MAN.ENC (R163): three upper-case letters give the word of their three groups, least significant byte first, bit 15
zero; a string of another length gives the all-zero id; a three-character string with another character is refused. -/
def Obligations.ManEncPacksThreeLetters : Prop :=
  (∀ (c0 c1 c2 : Char) (s : State), UpperCase c0 → UpperCase c1 → UpperCase c2 → ∃ m0 m1 : Byte,
    exec (.manEnc [c0, c1, c2]) s = .next (s.respond (.bytes [m0, m1])) ∧
    m0.toNat + 256 * m1.toNat = (c0.toNat - 64) * 1024 + (c1.toNat - 64) * 32 + (c2.toNat - 64) ∧ m1.msb = false) ∧
  (∀ (str : List Char) (s : State), str.length ≠ 3 →
    exec (.manEnc str) s = .next (s.respond (.bytes [0x00#8, 0x00#8]))) ∧
  (∀ (str : List Char) (s : State), str.length = 3 → (∃ c ∈ str, ¬UpperCase c) →
    exec (.manEnc str) s = .refused .manufacturerIdNotUppercase)

/-- SA.LH and SA.LL of 8 bytes anywhere in a buffer: each reads its own order and makes one object that keeps the 8 bytes as
they stand, so both orders of one device decode to the same four fields. Fewer than 8 bytes raise TruncatedBuffer; a device
id that is no packed decimal raises BcdInvalidNibble (the spec's decision D9). Nothing else changes. -/
def Obligations.AddressesAreReadInTheirOrder : Prop :=
  (∀ (id front back : Bytes) (m0 m1 ver typ : Byte) (s : State), id.length = 4 →
    (PackedDecimal id → ∃ x : Bcd,
      x.bytes = id ∧ x.negative = (hi (byteAt id 3) == 15) ∧
      exec (.saLh (front ++ id ++ [m0, m1, ver, typ] ++ back) front.length) s =
        .next ((s.addAddr { manufacturerId := manDecode m0 m1, deviceId := x, version := ver, deviceType := typ,
                            raw := id ++ [m0, m1, ver, typ] }).respond (.address s.addrs.length)) ∧
      exec (.saLl (front ++ [m0, m1] ++ id ++ [ver, typ] ++ back) front.length) s =
        .next ((s.addAddr { manufacturerId := manDecode m0 m1, deviceId := x, version := ver, deviceType := typ,
                            raw := [m0, m1] ++ id ++ [ver, typ] }).respond (.address s.addrs.length))) ∧
    (¬PackedDecimal id →
      exec (.saLh (front ++ id ++ [m0, m1, ver, typ] ++ back) front.length) s = .next (s.raise .bcdInvalidNibble) ∧
      exec (.saLl (front ++ [m0, m1] ++ id ++ [ver, typ] ++ back) front.length) s =
        .next (s.raise .bcdInvalidNibble))) ∧
  (∀ (buf : Bytes) (p : Nat) (s : State), buf.length < p + 8 →
    exec (.saLh buf p) s = .next (s.raise .truncatedBuffer) ∧ exec (.saLl buf p) s = .next (s.raise .truncatedBuffer))

/-- SA.RAW, SA.EQ and SA.CMP of any two addresses: equality and order are of the raw bytes, byte 0 first, bytes unsigned
(the order: the spec's decision D9); nothing but the CMD response changes. A message has some address of 8 bytes before its
header is decoded too, whichever it is (log 35: a free value). -/
def Obligations.AddressesCompareByRawBytes : Prop :=
  (∀ (n : Nat) (m : WlMessage) (s : State), s.msgs[n]? = some m → m.secondaryAddress = none → ∃ raw : Bytes,
    raw.length = 8 ∧ exec (.saRaw (.ofMsg n)) s = .next (s.respond (.bytes raw))) ∧
  ∀ (x y : SaRef) (a b : SecondaryAddress) (s : State), saAt s x = .ok a → saAt s y = .ok b →
    exec (.saRaw x) s = .next (s.respond (.bytes a.raw)) ∧
    (∃ e : Bool, exec (.saEq x y) s = .next (s.respond (.bit e)) ∧ (e = true ↔ a.raw = b.raw)) ∧
    ∃ o : Int, exec (.saCmp x y) s = .next (s.respond (.order o)) ∧ (o = -1 ∨ o = 0 ∨ o = 1) ∧
      (o = 0 ↔ a.raw = b.raw) ∧
      (a.raw.length = b.raw.length → (o = -1 ↔ ∃ (p r r' : Bytes) (u v : Byte),
        a.raw = p ++ u :: r ∧ b.raw = p ++ v :: r' ∧ u.toNat < v.toNat)) ∧
      exec (.saCmp y x) s = .next (s.respond (.order (-o)))

/-- SA.BUILD of a device id that fits 4 bytes and a manufacturer that MAN.ENC encodes (three upper-case letters, or a
string of another length) completes with an address of these fields, its raw bytes in the order asked for; a device id
that does not fit, and a manufacturer of three characters that are not all upper-case letters, are refused (the spec's
decision D9). -/
def Obligations.SaBuildMakesTheAddress : Prop :=
  ∀ (man : List Char) (v : Int) (ver typ : Byte) (order : SaOrder) (s : State),
    (-10000000 < v → v < 100000000 → man.length ≠ 3 ∨ (∀ c ∈ man, UpperCase c) →
      ∃ (m0 m1 : Byte) (a : SecondaryAddress), exec (.manEnc man) s = .next (s.respond (.bytes [m0, m1])) ∧
        exec (.saBuild man v ver typ order) s = .next ((s.addAddr a).respond (.address s.addrs.length)) ∧
        a.manufacturerId = manDecode m0 m1 ∧ bcdValue a.deviceId = v ∧ a.version = ver ∧ a.deviceType = typ ∧ a.whole ∧
        a.raw = (match order with
          | .lh => a.deviceId.bytes ++ [m0, m1, ver, typ]
          | .ll => [m0, m1] ++ a.deviceId.bytes ++ [ver, typ])) ∧
    (-10000000 < v → v < 100000000 → man.length = 3 → (∃ c ∈ man, ¬UpperCase c) →
      exec (.saBuild man v ver typ order) s = .refused .manufacturerIdNotUppercase) ∧
    (v ≤ -10000000 ∨ 100000000 ≤ v → exec (.saBuild man v ver typ order) s = .refused .bcdEncodeRange)

/-! ## DR unit -/

/-- DR.DEC of a DIB, a VIB of the table and the data field its code and the table's hint ask for, anywhere in a buffer,
makes the record of these parts, its value the one F-DATA reads, and answers the offset of the byte after it. With no byte
left, a window past the buffer, or a DIB that does not end in the window it raises TruncatedBuffer; for a VIB that is not
in the table UnrecognisedDifVif, whatever the data field code (the spec's decision D11); a failure of the data field is
its own. Nothing else changes. -/
def Obligations.DrDecReadsARecord : Prop :=
  (∀ (front dib vib field back : Bytes) (e : Bytes × VifEntry) (s : State), Chained dib → Chained vib →
    s.params.viftab.find? (fun x => x.1 == vib) = some e →
    (∀ used : Nat, DataField ((byteAt dib 0).toNat % 16) e.2.hint field used →
      ∃ (v : DataValue) (r : DataRecord),
        exec (.fData ((byteAt dib 0) &&& 0x0F#8) e.2.hint field) s = .next (s.respond (.fields (.data v used))) ∧
        exec (.drDec (front ++ dib ++ vib ++ field ++ back) front.length (dib.length + vib.length + field.length)) s =
          .next ((s.addRec r).respond
            (.record s.recs.length (front.length + dib.length + vib.length + used))) ∧
        r.dib = dib ∧ r.vib = vib ∧ r.description = e.2.description ∧ r.unit = unitOf s.params e.2.unit ∧
        r.multiplierExponent = e.2.multiplierExponent ∧ r.dataValue = v ∧
        ∃ d : DibFields, exec (.fDib dib) s = .next (s.respond (.fields (.dib d))) ∧
          r.functionField = d.functionField ∧ r.storageNumber = d.storageNumber ∧ r.tariff = d.tariff ∧
          r.subunit = d.subunit) ∧
    (∀ c, exec (.fData ((byteAt dib 0) &&& 0x0F#8) e.2.hint field) s = .next (s.raise c) →
      exec (.drDec (front ++ dib ++ vib ++ field ++ back) front.length (dib.length + vib.length + field.length)) s =
        .next (s.raise c))) ∧
  (∀ (buf : Bytes) (p remaining : Nat) (s : State),
    (remaining = 0 ∨ buf.length < p + remaining ∨
      ∀ k, p ≤ k → k < p + remaining → 128 ≤ (byteAt buf k).toNat) →
    exec (.drDec buf p remaining) s = .next (s.raise .truncatedBuffer)) ∧
  (∀ (dib vib field : Bytes) (s : State), Chained dib → Chained vib → (∀ e ∈ s.params.viftab, e.1 ≠ vib) →
    exec (.drDec (dib ++ vib ++ field) 0 (dib.length + vib.length + field.length)) s =
      .next (s.raise .unrecognisedDifVif))

/-- F-DATA and LVAR: data fields by their code and the table's hint: signed integers least significant byte first, packed
decimals, strings last character first, dates, no data, and a float of 4 bytes, whose value FloatsWidenExactly states; they
answer the value and the bytes it took, and bytes after it do not matter. Code F, and under a DATE hint every code but 2 and
4, raises UnrecognisedDifVif, a field of any code cut short TruncatedBuffer. The codes are the spec's decision D11, the
layouts D12, D14 and D15; that codes 0, 8 and D under DATE are no data field is log 34; that a format row is a request is log
19. -/
def Obligations.DataFieldsByCode : Prop :=
  ∀ (data w : Bytes) (s : State),
    (∀ (code : Byte) (n : Nat),
      (code, n) ∈ [(0x1#8, 1), (0x2#8, 2), (0x3#8, 3), (0x4#8, 4), (0x6#8, 6), (0x7#8, 8)] → data.length = n →
      ∃ v : BitVec 64, exec (.fData code .numeric (data ++ w)) s = .next (s.respond (.fields (.data (.long v) n))) ∧
        v.toInt = (if leNat data < 2 ^ (8 * n - 1) then (leNat data : Int) else leNat data - 2 ^ (8 * n))) ∧
    (∀ (code : Byte) (n : Nat), (code, n) ∈ [(0x9#8, 1), (0xA#8, 2), (0xB#8, 3), (0xC#8, 4), (0xE#8, 6)] →
      data.length = n →
      (PackedDecimal data → ∃ x : Bcd, exec (.fBcd data) s = .next (s.respond (.fields (.bcd x))) ∧
        exec (.fData code .numeric (data ++ w)) s = .next (s.respond (.fields (.data (.bcd x) n)))) ∧
      (¬PackedDecimal data →
        exec (.fData code .numeric (data ++ w)) s = .next (s.raise .bcdInvalidNibble))) ∧
    (∀ l : Byte, l.toNat = data.length → l.toNat < 0xC0 → ∀ r,
      r = FormatFields.data (.string (data.reverse.map (fun c => Char.ofNat c.toNat))) (1 + l.toNat) →
      exec (.fData 0xD#8 .numeric (l :: data ++ w)) s = .next (s.respond (.fields r)) ∧
      exec (.lvar (l :: data ++ w)) s = .next (s.respond (.fields r))) ∧
    (∀ l : Byte, 0xC0 ≤ l.toNat →
      exec (.fData 0xD#8 .numeric (l :: w)) s = .next (s.raise .unrecognisedDifVif) ∧
      exec (.lvar (l :: w)) s = .next (s.raise .unrecognisedDifVif)) ∧
    (data.length = 4 → ∃ x : BitVec 64,
      exec (.fData 0x5#8 .numeric (data ++ w)) s = .next (s.respond (.fields (.data (.double x) 4)))) ∧
    (∀ (code : Byte) (n : Nat), (code, n) ∈ [(0x1#8, 1), (0x2#8, 2), (0x3#8, 3), (0x4#8, 4), (0x5#8, 4), (0x6#8, 6),
        (0x7#8, 8), (0x9#8, 1), (0xA#8, 2), (0xB#8, 3), (0xC#8, 4), (0xE#8, 6)] → data.length < n →
      exec (.fData code .numeric data) s = .next (s.raise .truncatedBuffer)) ∧
    (∀ (code : Byte) (n : Nat), (code, n) ∈ [(0x2#8, 2), (0x4#8, 4)] → data.length < n →
      exec (.fData code .date data) s = .next (s.raise .truncatedBuffer)) ∧
    (exec (.fData 0xD#8 .numeric []) s = .next (s.raise .truncatedBuffer) ∧
      exec (.lvar []) s = .next (s.raise .truncatedBuffer)) ∧
    (∀ l : Byte, l.toNat < 0xC0 → w.length < l.toNat →
      exec (.fData 0xD#8 .numeric (l :: w)) s = .next (s.raise .truncatedBuffer) ∧
      exec (.lvar (l :: w)) s = .next (s.raise .truncatedBuffer)) ∧
    (∀ s0 s1 : Byte, exec (.fData 0x2#8 .date (s0 :: s1 :: w)) s = .next (s.respond (.fields (.data
      (.dateG { day := s0.toNat % 32, month := s1.toNat % 16,
                year := s0.toNat / 32 + 8 * (s1.toNat / 16) }) 2)))) ∧
    (∀ s0 s1 s2 s3 : Byte, exec (.fData 0x4#8 .date (s0 :: s1 :: s2 :: s3 :: w)) s = .next (s.respond (.fields (.data
      (.dateF { minute := s0.toNat % 64, invalid := s0.msb, hour := s1.toNat % 32, summer := s1.msb,
                day := s2.toNat % 32, month := s3.toNat % 16,
                year := s2.toNat / 32 + 8 * (s3.toNat / 16) }) 4)))) ∧
    (exec (.fData 0x0#8 .numeric w) s = .next (s.respond (.fields (.data .none 0))) ∧
      exec (.fData 0x8#8 .numeric w) s = .next (s.respond (.fields (.data .none 0))) ∧
      exec (.fData 0xF#8 .numeric w) s = .next (s.raise .unrecognisedDifVif)) ∧
    (∀ code : Byte, code.toNat < 16 → code ≠ 0x2#8 → code ≠ 0x4#8 →
      exec (.fData code .date w) s = .next (s.raise .unrecognisedDifVif))

/-- A 32-bit float field, least significant byte first, is widened exactly: the binary64 pattern it becomes has the same
value and sign; infinities stay infinities of the same sign; a NaN stays a NaN, whichever it is (log 14: a free value).
The format, the byte order and the exact widening are the spec's decision D12, from general knowledge (G9, log 30). -/
def Obligations.FloatsWidenExactly : Prop :=
  ∀ (b0 b1 b2 b3 : Byte) (w : Bytes) (s : State) (b : BitVec 32), b = b3 ++ b2 ++ b1 ++ b0 → ∃ x : BitVec 64,
    exec (.fData 0x5#8 .numeric ([b0, b1, b2, b3] ++ w)) s = .next (s.respond (.fields (.data (.double x) 4))) ∧
    (b.toNat / 2 ^ 23 % 256 ≠ 255 →
      float64Value x = float32Value b ∧ x.toNat / 2 ^ 52 % 2048 ≠ 2047 ∧ x.msb = b.msb) ∧
    (b.toNat / 2 ^ 23 % 256 = 255 → x.toNat / 2 ^ 52 % 2048 = 2047 ∧
      (x.toNat % 2 ^ 52 = 0 ↔ b.toNat % 2 ^ 23 = 0) ∧ (b.toNat % 2 ^ 23 = 0 → x.msb = b.msb))

/-- DR.SCALE of any record completes, but for a Bcd outside 64 bits, which is refused: the exact rational product for a
number, the value itself for a date, a string, an infinity or a NaN, nothing for no value (the spec's decision D18). -/
def Obligations.DrScaleIsExact : Prop :=
  ∀ (x : RecRef) (r : DataRecord) (s : State), recAt s x = .ok r →
    (∀ v, r.dataValue = .long v → exec (.drScale x) s =
      .next (s.respond (.scaled (.rational ((v.toInt : ℚ) * (10 : ℚ) ^ r.multiplierExponent.toInt))))) ∧
    (∀ b, r.dataValue = .bcd b → -2 ^ 63 ≤ bcdValue b → bcdValue b < 2 ^ 63 → exec (.drScale x) s =
      .next (s.respond (.scaled (.rational ((bcdValue b : ℚ) * (10 : ℚ) ^ r.multiplierExponent.toInt))))) ∧
    (∀ b, r.dataValue = .bcd b → bcdValue b < -2 ^ 63 ∨ 2 ^ 63 ≤ bcdValue b →
      exec (.drScale x) s = .refused .longOverflow) ∧
    (∀ d, r.dataValue = .double d → d.toNat / 2 ^ 52 % 2048 ≠ 2047 → exec (.drScale x) s =
      .next (s.respond (.scaled (.rational (float64Value d * (10 : ℚ) ^ r.multiplierExponent.toInt))))) ∧
    (∀ d, r.dataValue = .double d → d.toNat / 2 ^ 52 % 2048 = 2047 →
      exec (.drScale x) s = .next (s.respond (.scaled (.double d)))) ∧
    ((∃ d, r.dataValue = .dateG d) ∨ (∃ d, r.dataValue = .dateF d) ∨ (∃ cs, r.dataValue = .string cs) →
      exec (.drScale x) s = .next (s.respond (.scaled (.unscaled r.dataValue)))) ∧
    (r.dataValue = .none → exec (.drScale x) s = .next (s.respond (.scaled .nothing)))

/-! ## AES unit -/

/-- The mirror law: AES.DECRYPT of what AES.ENCRYPT gives is the plaintext, for every key, IV and plaintext of whole blocks;
both complete and change nothing but the CMD response. -/
def Obligations.AesDecryptMirrorsAesEncrypt : Prop :=
  ∀ (key iv m : Bytes) (s : State), key.length = 16 → iv.length = 16 → m.length % 16 = 0 → ∃ c : Bytes,
    exec (.aesEncrypt key iv m) s = .next (s.respond (.bytes c)) ∧ c.length = m.length ∧
    exec (.aesDecrypt key iv c 0 c.length (m.length / 16)) s = .next (s.respond (.bytes m))

/-- AES.DECRYPT of whole blocks out of a window: block `j` of the plaintext is InvCipher of block `j` of the ciphertext,
exclusive-ored with the block before it, the IV for the first; later bytes of the window are not looked at. A block count
beyond the bytes available raises BlockCountExceedsPayload before anything is read, a window that reaches past its buffer
TruncatedBuffer, whatever the block count (log 20); a key or IV of another length (first: log 32), and a plaintext of AES.ENCRYPT that is no whole number of
blocks (the spec's decision D19), are refused. -/
def Obligations.AesDecryptChainsBlocks : Prop :=
  (∀ (key iv front c rest back : Bytes) (n : Nat) (s : State), key.length = 16 → iv.length = 16 → c.length = 16 * n →
    ∃ m : Bytes,
      exec (.aesDecrypt key iv (front ++ c ++ rest ++ back) front.length (c.length + rest.length) n) s =
        .next (s.respond (.bytes m)) ∧
      m.length = 16 * n ∧
      ∀ j, j < n → (m.drop (16 * j)).take 16 =
        List.zipWith (· ^^^ ·) (invCipher key ((c.drop (16 * j)).take 16)) (((iv ++ c).drop (16 * j)).take 16)) ∧
  (∀ (key iv buf : Bytes) (p avail n : Nat) (s : State),
    (key.length ≠ 16 ∨ iv.length ≠ 16 → exec (.aesDecrypt key iv buf p avail n) s = .refused .badKeyOrIvLength ∧
      exec (.aesEncrypt key iv buf) s = .refused .badKeyOrIvLength) ∧
    (key.length = 16 → iv.length = 16 → p + avail ≤ buf.length → avail < n * 16 →
      exec (.aesDecrypt key iv buf p avail n) s = .next (s.raise .blockCountExceedsPayload)) ∧
    (key.length = 16 → iv.length = 16 → buf.length < p + avail →
      exec (.aesDecrypt key iv buf p avail n) s = .next (s.raise .truncatedBuffer)) ∧
    (key.length = 16 → iv.length = 16 → buf.length % 16 ≠ 0 →
      exec (.aesEncrypt key iv buf) s = .refused .plaintextNotBlockMultiple))

/-! ## VDS unit -/

/-- VDS.NEW always completes: a VDS in phase Raw with its operands stored (R280) and every other field at its construction
value (10_state.md R31, the spec's decision D22); it reads no byte of the buffer and writes nothing but the new object. The
optional address given as that of a decoded VDS is `None` where that is (references: log 16). -/
def Obligations.VdsNewStoresItsOperands : Prop :=
  ∀ (buf : Bytes) (off len : Nat) (ll : Option SaRef) (addr : Option SecondaryAddress) (keys : Bool) (s : State),
    (match ll with
      | none => addr = none
      | some (.ofVds n) => ∃ w, s.vdss[n]? = some w ∧ w.phase = .decoded ∧ addr = w.secondaryAddress
      | some r => ∃ a, addr = some a ∧ saAt s r = .ok a) → ∃ v : Vds,
      exec (.vdsNew buf off len ll keys) s = .next ((s.addVds v).respond (.vds s.vdss.length)) ∧
      v.buf = buf ∧ v.off = off ∧ v.len = len ∧ v.llAddr = addr ∧ v.keys = keys ∧ v.phase = .raw ∧
      v.secondaryAddress = none ∧ v.headerPresent = false ∧ v.accessNumber = 0#8 ∧ v.status = 0#8 ∧
      v.numberOfEncryptedBlocks = 0#8 ∧ v.encryptionMode = .none ∧ v.dataRecords = [] ∧ v.manufacturerData = [] ∧
      v.moreRecordsFollow = false

/-- VDS.DEC under CI 72: the address in long-header order, the short header, the records as they stand, nothing decrypted
whatever the block count and mode 0 or 5 say; a reserved mode fails (the spec's decisions D20, D21). Under CI 78: no header,
the header fields keep their construction values (D22), no key and no address is needed. One object is written, nothing
else but the CMD response. -/
def Obligations.VdsLongAndNoHeader : Prop :=
  ∀ (n : Nat) (v : Vds) (front w back : Bytes) (s : State), s.vdss[n]? = some v → v.phase = .raw → v.off = front.length →
    (∀ (raw : Bytes) (acc st c0 c1 : Byte) (a : SecondaryAddress),
      v.buf = front ++ 0x72#8 :: raw ++ [acc, st, c0, c1] ++ w ++ back → v.len = 13 + w.length →
      exec (.saLh raw 0) s = .next ((s.addAddr a).respond (.address s.addrs.length)) → raw.length = 8 →
      (∀ l, c1.toNat % 16 = 0 ∨ c1.toNat % 16 = 5 → readRecords s.params w = .ok l →
        exec (.vdsDec n) s = .next ((s.setVds n { v with
          phase := .decoded, ci := 0x72#8, secondaryAddress := some a, headerPresent := true, accessNumber := acc,
          status := st, numberOfEncryptedBlocks := c0 >>> 4,
          encryptionMode := if c1.toNat % 16 = 0 then .none else .aesCbcIv,
          dataRecords := l.records, manufacturerData := l.manufacturerData,
          moreRecordsFollow := l.moreRecordsFollow }).respond (.vds n))) ∧
      (c1.toNat % 16 ≠ 0 → c1.toNat % 16 ≠ 5 →
        exec (.vdsDec n) s = .next ((s.setVds n { v with phase := .failed }).raise .unsupportedEncryptionMode))) ∧
    (v.buf = front ++ 0x78#8 :: w ++ back → v.len = 1 + w.length → ∀ l, readRecords s.params w = .ok l →
      exec (.vdsDec n) s = .next ((s.setVds n { v with
        phase := .decoded, ci := 0x78#8, secondaryAddress := none, headerPresent := false, accessNumber := 0#8,
        status := 0#8, numberOfEncryptedBlocks := 0#8, encryptionMode := .none, dataRecords := l.records,
        manufacturerData := l.manufacturerData, moreRecordsFollow := l.moreRecordsFollow }).respond (.vds n)))

/-- VDS.DEC under CI 7A: with mode 0 the records as they stand, whatever the block count, and no address or key is needed;
with mode 5 the records of the decrypted buffer, its checks in the order missing address, missing key, block count, empty
buffer, wrong key (the spec's decisions D20, D26, D27); with a reserved mode a failure. A failure leaves the object Failed
and everything else as it was. -/
def Obligations.VdsShortHeader : Prop :=
  ∀ (n : Nat) (v : Vds) (front w back : Bytes) (acc st c0 c1 : Byte) (s : State),
    s.vdss[n]? = some v → v.phase = .raw →
    v.buf = front ++ [0x7A#8, acc, st, c0, c1] ++ w ++ back → v.off = front.length → v.len = 5 + w.length →
    (c1.toNat % 16 = 0 → ∀ l, readRecords s.params w = .ok l →
      exec (.vdsDec n) s = .next ((s.setVds n { v with
        phase := .decoded, ci := 0x7A#8, secondaryAddress := none, headerPresent := true, accessNumber := acc,
        status := st, numberOfEncryptedBlocks := c0 >>> 4, encryptionMode := .none, dataRecords := l.records,
        manufacturerData := l.manufacturerData, moreRecordsFollow := l.moreRecordsFollow }).respond (.vds n))) ∧
    (c1.toNat % 16 ≠ 0 → c1.toNat % 16 ≠ 5 →
      exec (.vdsDec n) s = .next ((s.setVds n { v with phase := .failed }).raise .unsupportedEncryptionMode)) ∧
    (c1.toNat % 16 = 5 → v.llAddr = none →
      exec (.vdsDec n) s = .next ((s.setVds n { v with phase := .failed }).raise .missingLinkLayerAddress)) ∧
    (c1.toNat % 16 = 5 → ∀ a, v.llAddr = some a → v.keys = false ∨ KeyMap.get s.keymap a.raw = none →
      exec (.vdsDec n) s = .next ((s.setVds n { v with phase := .failed }).raise .missingKey)) ∧
    (c1.toNat % 16 = 5 → ∀ a key, v.llAddr = some a → v.keys = true → KeyMap.get s.keymap a.raw = some key →
      key.length = 16 → a.raw.length = 8 →
      (w.length < 16 * (c0.toNat / 16) →
        exec (.vdsDec n) s = .next ((s.setVds n { v with phase := .failed }).raise .blockCountExceedsPayload)) ∧
      (c0.toNat / 16 = 0 →
        exec (.vdsDec n) s = .next ((s.setVds n { v with phase := .failed }).raise .truncatedBuffer)) ∧
      ∀ m, exec (.aesDecrypt key (a.raw ++ List.replicate 8 acc) w 0 w.length (c0.toNat / 16)) s =
          .next (s.respond (.bytes m)) → 0 < c0.toNat / 16 →
        (m.take 2 ≠ [0x2F#8, 0x2F#8] →
          exec (.vdsDec n) s = .next ((s.setVds n { v with phase := .failed }).raise .wrongKey)) ∧
        (m.take 2 = [0x2F#8, 0x2F#8] → ∀ l, readRecords s.params m = .ok l →
          exec (.vdsDec n) s = .next ((s.setVds n { v with
            phase := .decoded, ci := 0x7A#8, secondaryAddress := none, headerPresent := true, accessNumber := acc,
            status := st, numberOfEncryptedBlocks := c0 >>> 4, encryptionMode := .aesCbcIv,
            dataRecords := l.records, manufacturerData := l.manufacturerData,
            moreRecordsFollow := l.moreRecordsFollow }).respond (.vds n))))

/-- VDS.DEC under every other CI fails, distinctly for the 24 manufacturer-specific values (R284) and as unsupported for the
229 others (R285), and no byte after the CI is read. -/
def Obligations.OtherCiValuesFail : Prop :=
  ∀ (n : Nat) (v : Vds) (front w back : Bytes) (ci : Byte) (s : State), s.vdss[n]? = some v → v.phase = .raw →
    v.buf = front ++ ci :: w ++ back → v.off = front.length → v.len = 1 + w.length →
    (0xA0 ≤ ci.toNat ∧ ci.toNat ≤ 0xB7 →
      exec (.vdsDec n) s = .next ((s.setVds n { v with phase := .failed }).raise .manufacturerSpecificCI)) ∧
    (ci ≠ 0x72#8 → ci ≠ 0x78#8 → ci ≠ 0x7A#8 → ci.toNat < 0xA0 ∨ 0xB7 < ci.toNat →
      exec (.vdsDec n) s = .next ((s.setVds n { v with phase := .failed }).raise .unsupportedCI))

/-- All or nothing (R306): VDS.DEC of a Raw object completes either with the object Decoded and its operands kept, or with
the object Failed, no other field written, whatever had been parsed, and an exception of class DecodingException with the
cause of the part that failed; nothing outside the object changes. -/
def Obligations.VdsDecIsAllOrNothing : Prop :=
  ∀ (n : Nat) (v : Vds) (s : State), s.vdss[n]? = some v → v.phase = .raw →
    (∃ t : Vds, vdsBody s.params s.keymap v = .ok t ∧
      exec (.vdsDec n) s = .next ((s.setVds n t).respond (.vds n)) ∧ t.phase = .decoded ∧
      t.buf = v.buf ∧ t.off = v.off ∧ t.len = v.len ∧ t.llAddr = v.llAddr ∧ t.keys = v.keys) ∨
    ∃ c, vdsBody s.params s.keymap v = .error c ∧
      exec (.vdsDec n) s = .next ((s.setVds n { v with phase := .failed }).raise c) ∧
      c.failureClass = .decodingException

/-- A VDS is decoded once: VDS.DEC of one that is not Raw is refused (the spec's decision D43). Keys are never required for
unencrypted traffic: a VDS.DEC that succeeds under another CI than 7A or with another mode than AES_CBC_IV makes the same
object whatever KEYMAP holds. -/
def Obligations.VdsDecRunsOnceAndNeedsNoKeyForPlainData : Prop :=
  (∀ (n : Nat) (v : Vds) (s : State), s.vdss[n]? = some v → v.phase ≠ .raw →
    exec (.vdsDec n) s = .refused .decodeTwice) ∧
  (∀ (n : Nat) (s t : State) (v : Vds) (m : KeyMap), exec (.vdsDec n) s = .next t → t.resp = some (.result (.vds n)) →
    t.vdss[n]? = some v → v.ci ≠ 0x7A#8 ∨ v.encryptionMode ≠ .aesCbcIv →
    exec (.vdsDec n) { s with keymap := m } = .next { t with keymap := m })

/-- The turns of the record loop while enough bytes remain before the tail (the condition: the spec's decision D24): a
fill byte is skipped (44_vds.md R301); a marker 0F or 1F ends the list, 1F with `moreRecordsFollow` (R302); at any other
byte DR.DEC reads a record bounded by the end, tail included, and the loop goes on after it, or its exception ends the
decode (R304). -/
def Obligations.RecordLoopTurns : Prop :=
  ∀ (x : Byte) (w : Bytes) (s : State), s.params.vdsTail + s.params.vdsMinBeforeTail ≤ w.length + 1 →
    (x = 0x2F#8 → readRecords s.params (x :: w) = readRecords s.params w) ∧
    (x = 0x0F#8 ∨ x = 0x1F#8 → ∃ data, readRecords s.params (x :: w) =
      .ok { records := [], manufacturerData := data, moreRecordsFollow := x == 0x1F#8 }) ∧
    (x ≠ 0x2F#8 → x ≠ 0x0F#8 → x ≠ 0x1F#8 →
      (∀ c, exec (.drDec (x :: w) 0 (w.length + 1)) s = .next (s.raise c) →
        readRecords s.params (x :: w) = .error c) ∧
      (∀ r next, exec (.drDec (x :: w) 0 (w.length + 1)) s =
          .next ((s.addRec r).respond (.record s.recs.length next)) → 0 < next ∧
        (∀ c, readRecords s.params ((x :: w).drop next) = .error c → readRecords s.params (x :: w) = .error c) ∧
        (∀ l, readRecords s.params ((x :: w).drop next) = .ok l →
          readRecords s.params (x :: w) = .ok { l with records := r :: l.records })))

/-- Where the record list ends: with fewer than VDS_MIN_BEFORE_TAIL bytes before the tail it ends with nothing (the spec's
decision D24); after a marker the bytes between it and the tail are the manufacturer data, the marker not among them
(decision D25); any number of fill bytes before such an end changes nothing. -/
def Obligations.ManufacturerDataEndsTheList : Prop :=
  ∀ (p : Params) (k : Nat) (more : Bool) (w : Bytes),
    (p.vdsTail + p.vdsMinBeforeTail ≤ w.length + 1 →
      readRecords p (List.replicate k 0x2F#8 ++ (if more then 0x1F#8 else 0x0F#8) :: w) =
        .ok { records := [], manufacturerData := w.take (w.length - p.vdsTail), moreRecordsFollow := more }) ∧
    (w.length < p.vdsTail + p.vdsMinBeforeTail →
      readRecords p w = .ok { records := [], manufacturerData := [], moreRecordsFollow := false })

/-! ## WFC unit: frames and checksum -/

/-- ENC.SHORT (R321) is total and builds the five bytes of a short frame; ENC.LONG (R322) of at most 252 data bytes builds
the `len(data) + 9` bytes of a long frame, checksum over C, A, CI and data modulo 256, and refuses more data. Nothing but
the CMD response changes. -/
def Obligations.EncodersBuildTheFrames : Prop :=
  (∀ (c a : Byte) (s : State), exec (.encShort c a) s = .next (s.respond (.bytes [0x10#8, c, a, c + a, 0x16#8]))) ∧
  (∀ (c a ci : Byte) (data : Bytes) (s : State),
    (data.length ≤ 252 → ∃ (f : Bytes) (l k : Byte), l.toNat = 3 + data.length ∧
      k.toNat = (c.toNat + a.toNat + ci.toNat + (data.map BitVec.toNat).sum) % 256 ∧
      f = [0x68#8, l, l, 0x68#8, c, a, ci] ++ data ++ [k, 0x16#8] ∧
      exec (.encLong c a ci data) s = .next (s.respond (.bytes f))) ∧
    (252 < data.length → exec (.encLong c a ci data) s = .refused .payloadTooLong))

/-- CHK.SUM is total: the sum of the bytes modulo 256, additive, 0 for no byte, changed by any changed byte. CHK.VERIFY of
anything completes: 1 exactly for E5 alone, a right short frame and a right long frame; corrupting one byte that the
checksum covers makes it 0. -/
def Obligations.ChecksumsAreVerified : Prop :=
  (∀ (x y : Bytes) (u v : Byte) (s : State),
    exec (.chkSum x) s = .next (s.respond (.byte (BitVec.ofNat 8 (x.map BitVec.toNat).sum))) ∧
    checksum (x ++ y) = checksum x + checksum y ∧ checksum [] = 0#8 ∧
    (checksum (x ++ u :: y) = checksum (x ++ v :: y) ↔ u = v)) ∧
  (∀ (f : Bytes) (s : State), ∃ r : Bool, exec (.chkVerify f) s = .next (s.respond (.bit r)) ∧
    (r = true ↔ f = [0xE5#8] ∨ (∃ c a, f = [0x10#8, c, a, c + a, 0x16#8]) ∨
      ∃ c a ci data, data.length ≤ 252 ∧ exec (.encLong c a ci data) s = .next (s.respond (.bytes f)))) ∧
  (∀ (c a ci b : Byte) (data f : Bytes) (k : Nat) (s : State), data.length ≤ 252 → f = encLongFrame c a ci data →
    4 ≤ k → k < data.length + 7 → f[k]? ≠ some b →
    exec (.chkVerify (f.set k b)) s = .next (s.respond (.bit false)))

/-- DEC.FRAME and DEC.SHORT, and the format rows F-LONG and F-SHORT with them (log 19): a single character is a frame of one
byte; a long frame is read with its flags whatever its checks say, and one whose checks fail is rejected only if integrity
is enforced (the spec's decision D28), so what ENC.LONG builds is read back, as is what ENC.SHORT builds (decision D46);
another lead byte raises UnexpectedByte, a cut frame TruncatedBuffer, `L < 3` MalformedFrame once its bytes were read
(decision D29). Bytes after the frame do not matter. -/
def Obligations.FramesAreReadBack : Prop :=
  ∀ (back : Bytes) (s : State),
    exec (.decFrame (0xE5#8 :: back)) s = .next (s.respond (.frame .singleCharacter 1)) ∧
    (∀ (l l2 z c a ci k e : Byte) (data : Bytes), l.toNat = 3 + data.length →
      ∀ (i : Instr) (g : IntegrityFlags),
      i = .decFrame ([0x68#8, l, l2, z, c, a, ci] ++ data ++ [k, e] ++ back) ∨
        i = .fLong ([0x68#8, l, l2, z, c, a, ci] ++ data ++ [k, e] ++ back) →
      g = { lenOk := l2 == l, start2Ok := z == 0x68#8,
            cksOk := k == checksum ([c, a, ci] ++ data), stopOk := e == 0x16#8 } →
      (s.params.rxEnforceIntegrity = false ∨ g = { lenOk := true, start2Ok := true, cksOk := true, stopOk := true } →
        exec i s = .next (s.respond (.frame (.long
          { l := l, control := c, address := a, ci := ci, payload := data, checksum := k,
            bytes := [0x68#8, l, l2, z, c, a, ci] ++ data ++ [k, e], flags := g }) (l.toNat + 6)))) ∧
      (s.params.rxEnforceIntegrity = true → g ≠ { lenOk := true, start2Ok := true, cksOk := true, stopOk := true } →
        exec i s = .next (s.raise .malformedFrame))) ∧
    (∀ (c a k e : Byte) (i : Instr), i = .decShort ([0x10#8, c, a, k, e] ++ back) ∨ i = .fShort ([0x10#8, c, a, k, e] ++ back) →
      exec i s = .next (s.respond (.shortFrame
        { control := c, address := a, checksum := k, cksOk := k == c + a, stopOk := e == 0x16#8 }))) ∧
    (∀ b : Byte, b ≠ 0x68#8 → exec (.fLong (b :: back)) s = .next (s.raise .unexpectedByte) ∧
      (b ≠ 0xE5#8 → exec (.decFrame (b :: back)) s = .next (s.raise .unexpectedByte))) ∧
    (∀ (l : Byte) (i : Instr), i = .decFrame (0x68#8 :: l :: back) ∨ i = .fLong (0x68#8 :: l :: back) →
      (back.length < l.toNat + 4 → exec i s = .next (s.raise .truncatedBuffer)) ∧
      (l.toNat + 4 ≤ back.length → l.toNat < 3 → exec i s = .next (s.raise .malformedFrame))) ∧
    (∀ i : Instr, i = .decFrame [] ∨ i = .fLong [] ∨ i = .decFrame [0x68#8] ∨ i = .fLong [0x68#8] →
      exec i s = .next (s.raise .truncatedBuffer)) ∧
    (∀ i : Instr, i = .decShort back ∨ i = .fShort back →
      (back.length < 5 → exec i s = .next (s.raise .truncatedBuffer)) ∧
      (5 ≤ back.length → byteAt back 0 ≠ 0x10#8 → exec i s = .next (s.raise .unexpectedByte)))

/-! ## WFC unit: transmit, receive, link operations -/

/-- TX.FRAME of a wired session with LINK Idle completes on every byte string but a single-character frame: the bytes are
handed over whole and become LASTTX, nothing else changes; what starts with the lead byte E5, which MBC never transmits, is
refused (what is no result of an encoder: log 31). RX.FRAME there completes on a single character or a long frame: it is the result,
exactly its bytes are taken, nothing else changes; a long frame whose second length, second start, checksum or stop byte
is wrong is accepted with that flag cleared unless integrity is enforced (the spec's decision D28); any number of echoes
of the long frame transmitted last is dropped first (decision D30). With LINK AwaitingResponse both are refused (log 22),
and a wireless session has no transport (log 18). -/
def Obligations.TransportOperationsComplete : Prop :=
  ∀ (f : Bytes) (t : Nat) (more : List TpEvent) (s : State),
    (s.kind = .wireless → exec (.txFrame f) s = .fault .noTransport ∧ exec (.rxFrame t) s = .fault .noTransport) ∧
    (s.kind = .wired → s.link = .awaitingResponse →
      exec (.txFrame f) s = .refused .linkBusy ∧ exec (.rxFrame t) s = .refused .linkBusy) ∧
    (s.kind = .wired → s.link = .idle → f.head? ≠ some 0xE5#8 → exec (.txFrame f) s =
      .next { s with tpOut := s.tpOut ++ [f], lastTx := some f, resp := some (.result .none) }) ∧
    (s.kind = .wired → s.link = .idle → f.head? = some 0xE5#8 →
      exec (.txFrame f) s = .refused .singleCharacterOnlyReceived) ∧
    (s.kind = .wired → s.link = .idle → s.tpIn = delivered [0xE5#8] ++ more → s.lastTx ≠ some [0xE5#8] →
      exec (.rxFrame t) s = .next { s with
        tpIn := more, resp := some (.result (.received .singleCharacter)) }) ∧
    (s.kind = .wired → s.link = .idle → ∀ (l l2 z c a ci k e : Byte) (data fb : Bytes) (g : IntegrityFlags),
      l.toNat = 3 + data.length → fb = [0x68#8, l, l2, z, c, a, ci] ++ data ++ [k, e] →
      g = { lenOk := l2 == l, start2Ok := z == 0x68#8,
            cksOk := k == checksum ([c, a, ci] ++ data), stopOk := e == 0x16#8 } →
      s.params.rxEnforceIntegrity = false ∨ g = { lenOk := true, start2Ok := true, cksOk := true, stopOk := true } →
      s.tpIn = delivered fb ++ more → s.lastTx ≠ some fb →
      exec (.rxFrame t) s = .next { s with
        tpIn := more
        resp := some (.result (.received (.long
          { l := l, control := c, address := a, ci := ci, payload := data, checksum := k, bytes := fb,
            flags := g }))) }) ∧
    (s.kind = .wired → s.link = .idle → ∀ (c a ci : Byte) (data : Bytes), data.length ≤ 252 →
      s.tpIn = delivered (encLongFrame c a ci data) ++ more → s.lastTx ≠ some (encLongFrame c a ci data) →
      ∃ fr : LongFrame, exec (.rxFrame t) s = .next { s with
          tpIn := more, resp := some (.result (.received (.long fr))) } ∧
        fr.control = c ∧ fr.address = a ∧ fr.ci = ci ∧ fr.payload = data ∧ fr.bytes = encLongFrame c a ci data ∧
        fr.flags.all = true) ∧
    (s.kind = .wired → ∀ (c a ci : Byte) (data : Bytes) (k : Nat), data.length ≤ 252 →
      s.lastTx = some (encLongFrame c a ci data) →
      s.tpIn = (List.replicate k (delivered (encLongFrame c a ci data))).flatten ++ more →
      exec (.rxFrame t) s = exec (.rxFrame t) { s with tpIn := more })

/-- How RX.FRAME fails with LINK Idle, and what it has taken then: nothing arrives (0 bytes); a lead byte that starts no
received frame, 10 among them (1 byte); a long frame cut short (all that arrived); one with `L < 3` (exactly the frame; the
spec's decision D29), and, when integrity is enforced, one with a wrong second length, second start, checksum or stop byte,
be it an echo or not (exactly the frame; decision D28). LASTTX, LINK and everything else is as before. -/
def Obligations.RxFrameTraps : Prop :=
  ∀ (t : Nat) (b l : Byte) (f : Bytes) (more : List TpEvent) (s : State), s.kind = .wired → s.link = .idle →
    (s.tpIn = [] → exec (.rxFrame t) s = .next (s.raise .noResponse)) ∧
    (s.tpIn = .timeout :: more → exec (.rxFrame t) s = .next ({ s with tpIn := more }.raise .noResponse)) ∧
    (s.tpIn = .byte b :: more → b ≠ 0xE5#8 → b ≠ 0x68#8 →
      exec (.rxFrame t) s = .next ({ s with tpIn := more }.raise .unexpectedByte)) ∧
    (s.tpIn = delivered [0x68#8] ++ .timeout :: more →
      exec (.rxFrame t) s = .next ({ s with tpIn := more }.raise .incompleteResponse)) ∧
    (s.tpIn = delivered (0x68#8 :: l :: f) ++ .timeout :: more → f.length < l.toNat + 4 →
      exec (.rxFrame t) s = .next ({ s with tpIn := more }.raise .incompleteResponse)) ∧
    (s.tpIn = delivered (0x68#8 :: l :: f) ++ more → f.length = l.toNat + 4 → l.toNat < 3 →
      exec (.rxFrame t) s = .next ({ s with tpIn := more }.raise .malformedFrame)) ∧
    (∀ (l2 z c a ci k e : Byte) (data : Bytes), l.toNat = 3 + data.length → s.params.rxEnforceIntegrity = true →
      ¬(l2 = l ∧ z = 0x68#8 ∧ k = checksum ([c, a, ci] ++ data) ∧ e = 0x16#8) →
      s.tpIn = delivered ([0x68#8, l, l2, z, c, a, ci] ++ data ++ [k, e]) ++ more →
      exec (.rxFrame t) s = .next ({ s with tpIn := more }.raise .malformedFrame))

/-- LNK.WRITE, LNK.RESET, LNK.SELECT, LNK.DESELECT, LNK.SELRD and LNK.RSTRD complete on E5: each sends its frame, LASTTX is
the frame, LINK is Idle, the one byte is taken, and nothing else changes, but that LNK.RESET sets FCB of its address. A
payload of more than 252 bytes is refused before anything is sent. The control byte of the select family is a parameter
(the spec's decision D31), the select payload is the raw address as stored (D47), the selection bytes of LNK.SELRD are the
host's and LNK.RSTRD has no data (D32), LNK.RESET writes its bit after the acknowledgement (D33). -/
def Obligations.AcknowledgedOperationsComplete : Prop :=
  ∀ (a : Byte) (payload : Bytes) (sa : SaRef) (x : SecondaryAddress) (t : Nat) (more : List TpEvent) (s : State),
    s.kind = .wired → s.link = .idle → s.tpIn = delivered [0xE5#8] ++ more →
    ∀ after : Bytes → State, after = (fun f => { s with
        tpOut := s.tpOut ++ [f], lastTx := some f, tpIn := more, resp := some (.result .none) }) →
    (payload.length ≤ 252 →
      exec (.lnkWrite a payload t) s = .next (after (encLongFrame 0x73#8 a 0x51#8 payload)) ∧
      exec (.lnkSelrd a payload t) s = .next (after (encLongFrame s.params.cSndUdSel a 0x51#8 payload))) ∧
    (252 < payload.length →
      exec (.lnkWrite a payload t) s = .refused .payloadTooLong ∧
      exec (.lnkSelrd a payload t) s = .refused .payloadTooLong) ∧
    exec (.lnkRstrd a t) s = .next (after (encLongFrame s.params.cSndUdSel a 0x50#8 [])) ∧
    (∃ fcb, exec (.lnkReset a t) s = .next { after [0x10#8, 0x40#8, a, 0x40#8 + a, 0x16#8] with fcb := fcb } ∧
      fcbGet fcb a = true ∧ ∀ b, b ≠ a → fcbGet fcb b = fcbGet s.fcb b) ∧
    (saAt s sa = .ok x → x.raw.length = 8 →
      exec (.lnkSelect sa t) s = .next (after (encLongFrame s.params.cSndUdSel 0xFD#8 0x52#8 x.raw)) ∧
      exec (.lnkDeselect sa t) s = .next (after (encLongFrame s.params.cSndUdSel 0xFD#8 0x56#8 x.raw)))

/-- An acknowledged operation is TX.FRAME of its frame, then RX.FRAME: on a long frame it raises UnexpectedResponse, on an
exception of the receive it raises the same, in the state the receive left; only on the single character does it succeed,
and only then does LNK.RESET write a frame count bit (the spec's decision D33). The frames of the select family rest on
decisions D31, D32 and D47. -/
def Obligations.AcknowledgedOperationsExchangeFrames : Prop :=
  ∀ (i : Instr) (a : Byte) (payload f : Bytes) (t : Nat) (s : State), s.kind = .wired → s.link = .idle →
    payload.length ≤ 252 →
    (i = .lnkWrite a payload t ∧ f = encLongFrame 0x73#8 a 0x51#8 payload ∨
      i = .lnkSelrd a payload t ∧ f = encLongFrame s.params.cSndUdSel a 0x51#8 payload ∨
      i = .lnkRstrd a t ∧ f = encLongFrame s.params.cSndUdSel a 0x50#8 [] ∨
      i = .lnkReset a t ∧ f = [0x10#8, 0x40#8, a, 0x40#8 + a, 0x16#8] ∨
      ∃ sa x, saAt s sa = .ok x ∧ x.raw = payload ∧
        (i = .lnkSelect sa t ∧ f = encLongFrame s.params.cSndUdSel 0xFD#8 0x52#8 payload ∨
          i = .lnkDeselect sa t ∧ f = encLongFrame s.params.cSndUdSel 0xFD#8 0x56#8 payload)) →
    ∃ m r u, exec (.txFrame f) s = .next m ∧ exec (.rxFrame t) m = .next r ∧ exec i s = .next u ∧
      (r.resp = some (.result (.received .singleCharacter)) →
        u = { r with resp := some (.result .none), fcb := u.fcb } ∧ (i ≠ .lnkReset a t → u.fcb = s.fcb)) ∧
      (∀ fr, r.resp = some (.result (.received (.long fr))) → u = r.raise .unexpectedResponse) ∧
      (∀ c, r.resp = some (.exception c) → u = r)

/-- LNK.READ, however it ends, has sent REQ_UD2 with the frame count bit of the address, toggled that bit and no other, set
LASTTX, left LINK Idle, and touched no key, no scanner nibble, no event and no object but the VDS it may make; so the next
read of the address sends the other control byte (the toggle on every ending: the spec's decision D33). -/
def Obligations.LnkReadTogglesOnEveryEnding : Prop :=
  ∀ (a : Byte) (t : Nat) (s u : State), exec (.lnkRead a t) s = .next u →
    ∀ f, f = [0x10#8, if fcbGet s.fcb a then 0x7B#8 else 0x5B#8, a,
              (if fcbGet s.fcb a then 0x7B#8 else 0x5B#8) + a, 0x16#8] →
    u.tpOut = s.tpOut ++ [f] ∧ u.lastTx = some f ∧ u.link = .idle ∧
    fcbGet u.fcb a = !fcbGet s.fcb a ∧ (∀ b, b ≠ a → fcbGet u.fcb b = fcbGet s.fcb b) ∧
    u.keymap = s.keymap ∧ u.scanner.pos = s.scanner.pos ∧ u.scanner.value = s.scanner.value ∧
    u.scanner.found = s.scanner.found ∧ u.bcds = s.bcds ∧ u.addrs = s.addrs ∧ u.recs = s.recs ∧ u.msgs = s.msgs ∧
    u.evts = s.evts ∧ u.params = s.params ∧ u.free = s.free ∧ (∃ new, u.vdss = s.vdss ++ new) ∧
    (∀ w, exec (.lnkRead a t) u = .next w → ∃ g, w.tpOut = u.tpOut ++ [g] ∧ w.fcb = s.fcb ∧
      g[1]? = some (if fcbGet s.fcb a then 0x5B#8 else 0x7B#8))

/-- LNK.READ completes on an RSP_UD frame, whatever its address field (the spec's decision D48), whose data decode under CI
78: the result is a new VDS object over the window from CI to the end of the frame (decision D23), without a link-layer
address. E5 is an unexpected response (D48), a long frame that is not RSP_UD has the wrong message type, an encrypted
response has no link-layer address to decrypt with (decision D27), silence is no response. -/
def Obligations.LnkReadDecodesTheResponse : Prop :=
  ∀ (a : Byte) (t : Nat) (more : List TpEvent) (s : State), s.kind = .wired → s.link = .idle →
    (∀ (c d : Byte) (data : Bytes) (l : RecordList), data.length ≤ 252 → c.toNat % 16 = 8 → c.toNat < 64 →
      s.tpIn = delivered (encLongFrame c d 0x78#8 data) ++ more →
      readRecords s.params (data ++ [checksum ([c, d, 0x78#8] ++ data), 0x16#8]) = .ok l →
      ∃ (u : State) (v : Vds), exec (.lnkRead a t) s = .next u ∧ u.resp = some (.result (.vds s.vdss.length)) ∧
        u.vdss = s.vdss ++ [v] ∧ u.tpIn = more ∧ v.phase = .decoded ∧ v.ci = 0x78#8 ∧
        v.buf = encLongFrame c d 0x78#8 data ∧ v.off = 6 ∧ v.len = 3 + data.length ∧ v.llAddr = none ∧ v.keys = true ∧
        v.dataRecords = l.records ∧ v.manufacturerData = l.manufacturerData ∧
        v.moreRecordsFollow = l.moreRecordsFollow) ∧
    (s.tpIn = delivered [0xE5#8] ++ more →
      ∃ u, exec (.lnkRead a t) s = .next u ∧ u.resp = some (.exception .unexpectedResponse) ∧ u.tpIn = more ∧
        u.vdss = s.vdss) ∧
    (∀ c d ci data, data.length ≤ 252 → s.tpIn = delivered (encLongFrame c d ci data) ++ more →
      ¬(c.toNat % 16 = 8 ∧ c.toNat < 64) → ∃ u, exec (.lnkRead a t) s = .next u ∧
        u.resp = some (.exception .wrongMessageType) ∧ u.tpIn = more ∧ u.vdss = s.vdss) ∧
    (∀ c d acc st c0 c1 data, data.length ≤ 248 →
      s.tpIn = delivered (encLongFrame c d 0x7A#8 ([acc, st, c0, c1] ++ data)) ++ more →
      c.toNat % 16 = 8 → c.toNat < 64 → c1.toNat % 16 = 5 → ∃ u, exec (.lnkRead a t) s = .next u ∧
        u.resp = some (.exception .missingLinkLayerAddress) ∧ u.tpIn = more ∧ u.vdss = s.vdss) ∧
    (s.tpIn = .timeout :: more → ∃ u, exec (.lnkRead a t) s = .next u ∧
        u.resp = some (.exception .noResponse) ∧ u.tpIn = more ∧ u.vdss = s.vdss)

/-- LNK.SCANSEL (R357) transmits the select frame with the wildcard and receives: the answer is 0 exactly if the receive
ends in NoResponse, 1 for a single character, a long frame, an unexpected byte, a malformed or an incomplete frame; it
raises nothing, LINK is Idle again, and what a collision leaves in the transport stays there. -/
def Obligations.ScanselAnswersWhetherAnythingArrived : Prop :=
  ∀ (wild : Bytes) (t : Nat) (s : State), s.kind = .wired → s.link = .idle → wild.length = 8 →
    ∃ (m r : State) (answered : Bool),
      exec (.txFrame (encLongFrame s.params.cSndUdSel 0xFD#8 0x52#8 wild)) s = .next m ∧
      exec (.rxFrame t) m = .next r ∧
      exec (.lnkScansel wild t) s = .next { r with resp := some (.result (.bit answered)), link := .idle } ∧
      (answered = false ↔ r.resp = some (.exception .noResponse)) ∧
      (Silent s.tpIn → answered = false) ∧
      (∀ b more, s.tpIn = .byte b :: more → b ≠ 0x68#8 → answered = true ∧ r.tpIn = more)

/-! ## WLC unit -/

/-- WL.NEW of a wireless session makes a message in phase Raw and emits onMessage with it (the spec's decision D37), and
reads no byte (the message as the CMD port's answer, also to a delivery: log 26). WL.DEC of a message in phase Raw or
Header: of a buffer whose length byte is at least 10 and within the buffer it writes length, control byte and address,
phase Header, whatever the control byte and the bytes after the address; a length too large, too small or absent and a
device id that is no packed decimal fail, and leave the message Failed. In phase Deep or Failed WL.DEC and WL.DEEP are
refused. -/
def Obligations.WlDecReadsTheHeader : Prop :=
  (∀ (buf rssi : Bytes) (s : State), s.kind = .wireless → ∃ m : WlMessage, m.buf = buf ∧ m.rssi = rssi ∧
    m.phase = .raw ∧ exec (.wlNew buf rssi) s = .next { s with
      msgs := s.msgs ++ [m]
      evts := if s.listener then s.evts ++ [.onMessage s.msgs.length rssi] else s.evts
      resp := some (.result (.message s.msgs.length)) }) ∧
  (∀ (n : Nat) (m : WlMessage) (s : State), s.msgs[n]? = some m →
    (m.phase = .deep ∨ m.phase = .failed →
      exec (.wlDec n) s = .refused .decodeTwice ∧ exec (.wlDeep n) s = .refused .decodeTwice) ∧
    (m.phase = .raw ∨ m.phase = .header →
      (∀ (l c : Byte) (raw w : Bytes), m.buf = l :: c :: raw ++ w → raw.length = 8 → 10 ≤ l.toNat →
        l.toNat ≤ 9 + w.length →
        (PackedDecimal ((raw.drop 2).take 4) → ∃ a : SecondaryAddress,
          exec (.saLl raw 0) s = .next ((s.addAddr a).respond (.address s.addrs.length)) ∧ a.raw = raw ∧
          exec (.wlDec n) s = .next ((s.setMsg n { m with
            length := l, control := c, secondaryAddress := some a, phase := .header }).respond (.message n))) ∧
        (¬PackedDecimal ((raw.drop 2).take 4) →
          exec (.wlDec n) s = .next ((s.setMsg n { m with phase := .failed }).raise .bcdInvalidNibble))) ∧
      (m.buf = [] → exec (.wlDec n) s = .next ((s.setMsg n { m with phase := .failed }).raise .truncatedBuffer)) ∧
      (∀ (l : Byte) (w : Bytes), m.buf = l :: w →
        (w.length < l.toNat →
          exec (.wlDec n) s = .next ((s.setMsg n { m with phase := .failed }).raise .wirelessLengthExceedsBuffer)) ∧
        (l.toNat ≤ w.length → l.toNat < 10 →
          exec (.wlDec n) s = .next ((s.setMsg n { m with phase := .failed }).raise .truncatedBuffer)))))

/-- WL.DEEP of a message in phase Header is VDS.NEW over the bytes from offset 10 to the end of the frame with the
message's address, and VDS.DEC of it: the message holds the VDS; it becomes Deep if the decode succeeds, and stays in
phase Header with the VDS Failed if it does not, so that it may be called again (the spec's decision D43). Of a message in
phase Raw it is WL.DEC first, whose exception is its own. -/
def Obligations.WlDeepDecodesTheVds : Prop :=
  ∀ (n : Nat) (m : WlMessage) (s : State), s.msgs[n]? = some m →
    (∀ a, m.phase = .header → m.secondaryAddress = some a → ∃ u w t : State,
      exec (.vdsNew m.buf 10 (m.length.toNat - 9) (some (.ofMsg n)) true) s = .next u ∧
      exec (.vdsDec s.vdss.length) u = .next w ∧ exec (.wlDeep n) s = .next t ∧
      (∀ r, w.resp = some (.result r) →
        t = (w.setMsg n { m with vds := some s.vdss.length, phase := .deep }).respond (.message n)) ∧
      (∀ c, w.resp = some (.exception c) → t = w.setMsg n { m with vds := some s.vdss.length })) ∧
    (m.phase = .raw → ∃ u, exec (.wlDec n) s = .next u ∧
      (∀ r, u.resp = some (.result r) → exec (.wlDeep n) s = exec (.wlDeep n) u) ∧
      (∀ c, u.resp = some (.exception c) → exec (.wlDeep n) s = .next u))

/-! ## SCAN unit -/

/-- SCAN.INIT of a mask of 16 characters, each a decimal digit or f or F, starts a scan: `pos` at the first wildcard of the
first eight nibbles, clamped to 7, the nibble there made 0 if SCAN_INIT_ZERO (the spec's decision D40), positions 8 to 15
wildcards, every other nibble as the mask has it with the characters of each pair exchanged (decision D38), nothing found,
no stop, no abort. Any other mask is refused. That a scan now runs is log 11. -/
def Obligations.ScanInitReadsTheMask : Prop :=
  ∀ (m : List Char) (s : State), s.kind = .wired →
    (m.length ≠ 16 ∨ (∃ c ∈ m, c ∉ maskChars) → exec (.scanInit m) s = .refused .badMask) ∧
    (m.length = 16 → (∀ c ∈ m, c ∈ maskChars) → ∀ d : Nat → Nat,
      d = (fun k =>
        let c := m.getD (if k % 2 = 0 then k + 1 else k - 1) 'f'
        if c = 'f' ∨ c = 'F' then 15 else c.toNat - 48) →
      ∃ sc : Scanner,
        exec (.scanInit m) s = .next { s with scanner := sc, resp := some (.result (.scanner sc.pos sc.value)) } ∧
        sc.found = [] ∧ sc.stop = false ∧ sc.abortReq = false ∧ sc.running = true ∧ sc.value.length = 16 ∧
        sc.pos ≤ 7 ∧ (∀ k, k < sc.pos → d k ≠ 15) ∧ (sc.pos < 7 → d sc.pos = 15) ∧
        (∀ k, k < 8 → k ≠ sc.pos → sc.value[k]? = some (d k)) ∧
        sc.value[sc.pos]? = some (if s.params.scanInitZero = true ∧ d sc.pos = 15 then 0 else d sc.pos) ∧
        (∀ k, 8 ≤ k → k < 16 → sc.value[k]? = some 15))

/-- SCAN.NARROW with `pos < 7` splits the wildcard space one nibble finer (48_scanner.md R428): `pos` goes one up and the
nibble there becomes 0, a digit of the mask overwritten; no other nibble and nothing else changes. The answer on the CMD
port is the model's choice (log 33). -/
def Obligations.ScanNarrowGoesOneNibbleFiner : Prop :=
  ∀ s : State, s.kind = .wired → s.scanner.pos < 7 → s.scanner.value.length = 16 → ∃ value : List Nat,
    exec .scanNarrow s = .next { s with
      scanner := { s.scanner with pos := s.scanner.pos + 1, value := value }
      resp := some (.result (.scanner (s.scanner.pos + 1) value)) } ∧
    value[s.scanner.pos + 1]? = some 0 ∧ ∀ k, k ≠ s.scanner.pos + 1 → value[k]? = s.scanner.value[k]?

/-- SCAN.ADV: the next digit at `pos` while it stays below 10; at position 0 the scan stops; else the carry backs up to the
nearest position whose nibble does not exceed 10 after the increment (the test is above 10, not above 9), everything to its
right becomes a wildcard, and if there is none the scan stops at position 0 (the spec's decision D40). SCAN.NARROW at
`pos = 7`, where the spec never calls it, is refused (log 10); a wireless session has no scanner (log 18). The answer on the
CMD port is the model's choice (log 33), and so is that a nibble beyond the legal 0 to 16 goes on without a bound (log 36). -/
def Obligations.ScanAdvTakesTheNextCandidate : Prop :=
  ∀ s : State,
    (s.kind = .wireless → exec .scanAdv s = .fault .noScanner ∧ exec .scanNarrow s = .fault .noScanner) ∧
    (s.kind = .wired → 7 ≤ s.scanner.pos → exec .scanNarrow s = .refused .narrowAtMaxPos) ∧
    (s.kind = .wired → s.scanner.shaped → ∀ (p : Nat) (v : Nat → Nat), p = s.scanner.pos →
      v = (fun k => s.scanner.value.getD k 0) →
      ∃ (pos : Nat) (value : List Nat) (stop : Bool),
        exec .scanAdv s = .next { s with
          scanner := { s.scanner with pos := pos, value := value, stop := stop }
          resp := some (.result (.scanner pos value)) } ∧ value.length = 16 ∧
        (v p + 1 < 10 → pos = p ∧ stop = s.scanner.stop ∧ value = s.scanner.value.set p (v p + 1)) ∧
        (10 ≤ v p + 1 → p = 0 → pos = 0 ∧ stop = true ∧ value = s.scanner.value.set 0 (v 0 + 1)) ∧
        (10 ≤ v p + 1 → ∀ k, k < p → v k + 1 ≤ 10 → (∀ j, k < j → j < p → 10 < v j + 1) →
          pos = k ∧ stop = s.scanner.stop ∧
          value = s.scanner.value.take k ++ [v k + 1] ++ List.replicate (15 - k) 15) ∧
        (10 ≤ v p + 1 → 0 < p → (∀ j, j < p → 10 < v j + 1) →
          pos = 0 ∧ stop = true ∧ value = (v 0 + 1) :: List.replicate 15 15))

/-- SCAN.STEP completes whatever the bus does: LNK.SCANSEL of the packed nibbles; if it was answered LNK.READ of 0xFD,
whose VDS is not kept; one onScanMessage, its text free (log 13: a free value); then SCAN.ADV on no answer; on one device,
its address recorded and notified unless it is there already (the spec's decision D39), and SCAN.ADV; on anything else
SCAN.NARROW, or SCAN.ADV at `pos = 7`. The answer on the CMD port is the one of that last move, the model's choice (log
33). -/
def Obligations.ScanStepProbesOnce : Prop :=
  ∀ (t : Nat) (s : State), s.kind = .wired → s.link = .idle → ∃ (u a : State) (w : Bytes),
    exec (.scanStep t) s = .next u ∧
    exec (.scanPack (s.scanner.value.map (BitVec.ofNat 8))) s = .next (s.respond (.bytes w)) ∧
    exec (.lnkScansel w t) s = .next a ∧
    ∀ noted : State → State, noted = (fun x => { x with
        vdss := s.vdss
        free := s.free + 1
        evts := if s.listener then s.evts ++ [.onScanMessage (Config.scanMessageText s.free)] else s.evts }) →
      (a.resp = some (.result (.bit false)) → exec .scanAdv (noted a) = .next u) ∧
      (a.resp = some (.result (.bit true)) → ∃ b, exec (.lnkRead 0xFD#8 t) a = .next b ∧
        (∀ v x, b.vdss = s.vdss ++ [v] → v.ci = 0x72#8 → v.secondaryAddress = some x →
          ((∃ e ∈ s.scanner.found, e.raw = x.raw) → exec .scanAdv (noted b) = .next u) ∧
          ((∀ e ∈ s.scanner.found, e.raw ≠ x.raw) →
            exec .scanAdv { noted b with
              scanner := { b.scanner with found := s.scanner.found ++ [x] }
              evts := if s.listener then (noted b).evts ++ [.onDeviceFound x] else s.evts } = .next u)) ∧
        (b.vdss = s.vdss ∨ (∃ v, b.vdss = s.vdss ++ [v] ∧ (v.ci ≠ 0x72#8 ∨ v.secondaryAddress = none)) →
          (s.scanner.pos < 7 → exec .scanNarrow (noted b) = .next u) ∧
          (7 ≤ s.scanner.pos → exec .scanAdv (noted b) = .next u)))

/-- SCAN.RUN terminates whatever the bus answers: it is SCAN.INIT and then at most the sum of 11^k for k from 1 to 8 turns
of SCAN.STEP, each begun only while neither `stop` nor `abortReq` is set, and after the last one is; the result is what
was found, without duplicates (the spec's decision D39); no scan runs any more. A SCAN.ABORT that arrived since the last
read sets `abortReq` before the loop looks at it: one that arrives before the first step ends the scan with nothing sent and
nothing found. As an operation of its own SCAN.ABORT always completes: it sets `abortReq` while a scan runs and does nothing
when none does (what "a scan runs" is, and how an abort arrives while SCAN.RUN runs: log 11; SCAN.RUN as one step: log
12). -/
def Obligations.ScanRunTerminates : Prop :=
  (∀ (mask : List Char) (t : Nat) (s : State), s.kind = .wired → s.link = .idle → mask.length = 16 →
    (∀ c ∈ mask, c ∈ maskChars) → ∀ looked : State → State,
    looked = (fun x => { x with
      tpIn := x.tpIn.dropWhile (· == .abortBetween)
      scanner := { x.scanner with
        abortReq := x.scanner.abortReq || (x.scanner.running && x.tpIn.head? == some .abortBetween) } }) →
    ∃ (n : Nat) (init : State) (run : Nat → State) (u : State),
      exec (.scanInit mask) s = .next init ∧ run 0 = looked init ∧ n ≤ 235794768 ∧
      (∀ k, k < n → (run k).scanner.stop = false ∧ (run k).scanner.abortReq = false ∧
        ∃ v, exec (.scanStep t) (run k) = .next v ∧ run (k + 1) = looked v) ∧
      exec (.scanRun mask t) s = .next u ∧
      ((run n).scanner.stop = true ∨ (run n).scanner.abortReq = true) ∧
      u = { run n with
        scanner := { (run n).scanner with running := false }
        resp := some (.result (.found (run n).scanner.found)) } ∧
      u.scanner.distinct ∧
      (s.tpIn.head? = some .abortBetween →
        u.tpOut = s.tpOut ∧ u.fcb = s.fcb ∧ u.evts = s.evts ∧ u.resp = some (.result (.found [])))) ∧
  (∀ s : State, exec .scanAbort s = .next { s with
    scanner := { s.scanner with abortReq := s.scanner.abortReq || s.scanner.running }
    resp := some (.result .none) })

/-! ## Formats, tables and bit patterns (as requests: log 19) -/

/-- MASK.FLIP exchanges the two characters of every pair, is its own inverse, and refuses a string of odd length. SCAN.PACK
and F-WILD of 16 nibbles pack two to a byte, the even position in the low half (the spec's decision D38). F-IV is the 8 raw
bytes and the access number 8 times. -/
def Obligations.MaskWildcardAndIvLayouts : Prop :=
  ∀ (m : List Char) (value raw : Bytes) (acc : Byte) (s : State),
    (m.length % 2 = 0 → ∃ r : List Char, exec (.maskFlip m) s = .next (s.respond (.text r)) ∧ r.length = m.length ∧
      (∀ i, 2 * i + 1 < m.length → r[2 * i]? = m[2 * i + 1]? ∧ r[2 * i + 1]? = m[2 * i]?) ∧
      exec (.maskFlip r) s = .next (s.respond (.text m))) ∧
    (m.length % 2 = 1 → exec (.maskFlip m) s = .refused .badMask) ∧
    (value.length = 16 → ∃ w : Bytes, exec (.scanPack value) s = .next (s.respond (.bytes w)) ∧
      exec (.fWild value) s = .next (s.respond (.bytes w)) ∧ w.length = 8 ∧
      ∀ i, i < 8 → hi (byteAt w i) = (byteAt value (2 * i + 1)).toNat % 16 ∧
        lo (byteAt w i) = (byteAt value (2 * i)).toNat % 16) ∧
    (raw.length = 8 → ∃ iv : Bytes, exec (.fIv raw acc) s = .next (s.respond (.bytes iv)) ∧ iv.length = 16 ∧
      iv.take 8 = raw ∧ ∀ k, 8 ≤ k → k < 16 → iv[k]? = some acc)

/-- The rows that name a byte complete on every byte: F-ACK; REQ-UD2, the control byte for a frame count bit; RSP-UD-TEST, 1
exactly for 08, 18, 28 and 38; C-FIELD, every name of the control byte, the select family's under its parameter; A-FIELD,
whether it is 0xFD; CI-FIELD, what MBC sends a value for and what a received one means; SPECIAL; LEAD-BYTE, which raises
UnexpectedByte for any but E5 and 68; F-MAN, the three 5-bit groups of the little-endian word. -/
def Obligations.BytesAreNamed : Prop :=
  ∀ (b b' : Byte) (f : Bool) (s : State),
    exec .fAck s = .next (s.respond (.frame .singleCharacter 1)) ∧
    exec (.reqUd2 f) s = .next (s.respond (.byte (if f then 0x7B#8 else 0x5B#8))) ∧
    (∃ r : Bool, exec (.rspUdTest b) s = .next (s.respond (.bit r)) ∧
      (r = true ↔ b ∈ [0x08#8, 0x18#8, 0x28#8, 0x38#8])) ∧
    (∃ names : List ControlName, exec (.cField b) s = .next (s.respond (.fields (.control names))) ∧
      (.sndNke ∈ names ↔ b = 0x40#8) ∧ (.reqUd2 true ∈ names ↔ b = 0x7B#8) ∧ (.reqUd2 false ∈ names ↔ b = 0x5B#8) ∧
      (.sndUdWrite ∈ names ↔ b = 0x73#8) ∧ (.sndUdSelect ∈ names ↔ b = s.params.cSndUdSel) ∧
      (.rspUd ∈ names ↔ b ∈ [0x08#8, 0x18#8, 0x28#8, 0x38#8])) ∧
    exec (.aField b) s = .next (s.respond (.fields (.addressField (b == 0xFD#8)))) ∧
    (∃ (sent : Option CiSent) (received : CiReceived),
      exec (.ciField b) s = .next (s.respond (.fields (.ci sent received))) ∧
      (sent = some .resetReadout ↔ b = 0x50#8) ∧ (sent = some .dataSendOrSelectForReadout ↔ b = 0x51#8) ∧
      (sent = some .select ↔ b = 0x52#8) ∧ (sent = some .deselect ↔ b = 0x56#8) ∧
      (received = .longHeader ↔ b = 0x72#8) ∧ (received = .noHeader ↔ b = 0x78#8) ∧
      (received = .shortHeader ↔ b = 0x7A#8) ∧
      (received = .manufacturerSpecific ↔ 0xA0 ≤ b.toNat ∧ b.toNat ≤ 0xB7)) ∧
    (∃ k : SpecialByte, exec (.special b) s = .next (s.respond (.fields (.special k))) ∧
      (k = .fill ↔ b = 0x2F#8) ∧ (k = .marker false ↔ b = 0x0F#8) ∧ (k = .marker true ↔ b = 0x1F#8)) ∧
    (b = 0xE5#8 → exec (.leadByte b) s = .next (s.respond (.fields (.lead false)))) ∧
    (b = 0x68#8 → exec (.leadByte b) s = .next (s.respond (.fields (.lead true)))) ∧
    (b ≠ 0xE5#8 → b ≠ 0x68#8 → exec (.leadByte b) s = .next (s.raise .unexpectedByte)) ∧
    (∃ g0 g1 g2 : BitVec 5, exec (.fMan b b') s = .next (s.respond (.fields (.letterGroups g0 g1 g2))) ∧
      (b.toNat + 256 * b'.toNat) % 32768 = g0.toNat * 1024 + g1.toNat * 32 + g2.toNat)

/-- The rows that read a structure from the front of a buffer complete on it, whatever bytes follow: F-SA-LH and F-SA-LL,
of an address whose device id is a packed decimal, as SA.LH and SA.LL read it, and of another BcdInvalidNibble, F-SH
(access number, status, block count and mode nibbles: the spec's decision D20), F-LH (an address and a short header), F-WL
(the header as WL.DEC reads it, and the window of the VDS), F-DIB (its fields are sums over the extension bytes: decision
D11), F-VIB (the block and its table entry), F-BCD as BCD.DEC reads it. -/
def Obligations.StructuresAreRead : Prop :=
  ∀ (w : Bytes) (s : State),
    (∀ raw : Bytes, raw.length = 8 →
      (PackedDecimal (raw.take 4) → ∃ a : SecondaryAddress,
        exec (.saLh raw 0) s = .next ((s.addAddr a).respond (.address s.addrs.length)) ∧ a.raw = raw ∧
        exec (.fSaLh (raw ++ w)) s = .next (s.respond (.fields (.address a))) ∧
        ∀ acc st c0 c1 : Byte, ∃ h : ShortHeader,
          exec (.fSh [acc, st, c0, c1]) s = .next (s.respond (.fields (.shortHeader h))) ∧
          exec (.fLh (raw ++ [acc, st, c0, c1] ++ w)) s = .next (s.respond (.fields (.longHeader a h)))) ∧
      (PackedDecimal ((raw.drop 2).take 4) → ∃ a : SecondaryAddress,
        exec (.saLl raw 0) s = .next ((s.addAddr a).respond (.address s.addrs.length)) ∧ a.raw = raw ∧
        exec (.fSaLl (raw ++ w)) s = .next (s.respond (.fields (.address a))) ∧
        ∀ l c : Byte, 10 ≤ l.toNat → l.toNat ≤ 9 + w.length →
          exec (.fWl (l :: c :: raw ++ w)) s = .next (s.respond (.fields (.wireless l c a 10 (l.toNat - 9))))) ∧
      (¬PackedDecimal (raw.take 4) → exec (.fSaLh (raw ++ w)) s = .next (s.raise .bcdInvalidNibble) ∧
        exec (.fLh (raw ++ w)) s = .next (s.raise .bcdInvalidNibble)) ∧
      (¬PackedDecimal ((raw.drop 2).take 4) → exec (.fSaLl (raw ++ w)) s = .next (s.raise .bcdInvalidNibble))) ∧
    (∀ short : Bytes, short.length < 8 → exec (.fSaLh short) s = .next (s.raise .truncatedBuffer) ∧
      exec (.fSaLl short) s = .next (s.raise .truncatedBuffer) ∧ exec (.fLh short) s = .next (s.raise .truncatedBuffer)) ∧
    (∀ acc st c0 c1 : Byte, ∃ h : ShortHeader,
      exec (.fSh ([acc, st, c0, c1] ++ w)) s = .next (s.respond (.fields (.shortHeader h))) ∧
      h.accessNumber = acc ∧ h.status = st ∧ h.numberOfEncryptedBlocks.toNat = c0.toNat / 16 ∧
      (h.encryptionMode = .none ↔ c1.toNat % 16 = 0) ∧ (h.encryptionMode = .aesCbcIv ↔ c1.toNat % 16 = 5)) ∧
    (∀ (d : Byte) (es : Bytes), Chained (d :: es) → ∃ f : DibFields,
      exec (.fDib (d :: es ++ w)) s = .next (s.respond (.fields (.dib f))) ∧ f.dib = d :: es ∧
      f.code = d.toNat % 16 ∧ f.functionField = functionFieldOf (d.toNat / 16 % 4) ∧
      f.storageNumber = d.toNat / 64 % 2 +
        ((List.range es.length).map (fun j => (byteAt es j).toNat % 16 * 2 ^ (1 + 4 * j))).sum ∧
      f.tariff = ((List.range es.length).map (fun j => (byteAt es j).toNat / 16 % 4 * 2 ^ (2 * j))).sum ∧
      f.subunit = ((List.range es.length).map (fun j => (byteAt es j).toNat / 64 % 2 * 2 ^ j)).sum) ∧
    (∀ (vib : Bytes), Chained vib →
      (∀ e, s.params.viftab.find? (fun x => x.1 == vib) = some e →
        exec (.fVib (vib ++ w)) s = .next (s.respond (.fields (.vib vib e.2)))) ∧
      ((∀ e ∈ s.params.viftab, e.1 ≠ vib) → exec (.fVib (vib ++ w)) s = .next (s.raise .unrecognisedDifVif))) ∧
    (∀ b : Bytes, PackedDecimal b → ∃ x : Bcd,
      exec (.bcdDec b) s = .next ((s.addBcd x).respond (.bcd s.bcds.length)) ∧
      exec (.fBcd b) s = .next (s.respond (.fields (.bcd x))))
end

