-- ==== Sys2Proof/Laws/State.lean ====
section
/-! SUPPORT. What each named update of the state writes and leaves: one lemma per field per update, so that no later proof
unfolds a record update. Generated field by field; every lemma is true by definition. -/

namespace Sys2Proof.Machine

/-! ### `State.respond` -/

@[simp] theorem State.respond_kind (s : State) (v : Value) : (s.respond v).kind = s.kind := rfl
@[simp] theorem State.respond_port (s : State) (v : Value) : (s.respond v).port = s.port := rfl
@[simp] theorem State.respond_params (s : State) (v : Value) : (s.respond v).params = s.params := rfl
@[simp] theorem State.respond_fcb (s : State) (v : Value) : (s.respond v).fcb = s.fcb := rfl
@[simp] theorem State.respond_keymap (s : State) (v : Value) : (s.respond v).keymap = s.keymap := rfl
@[simp] theorem State.respond_lastTx (s : State) (v : Value) : (s.respond v).lastTx = s.lastTx := rfl
@[simp] theorem State.respond_link (s : State) (v : Value) : (s.respond v).link = s.link := rfl
@[simp] theorem State.respond_scanner (s : State) (v : Value) : (s.respond v).scanner = s.scanner := rfl
@[simp] theorem State.respond_bcds (s : State) (v : Value) : (s.respond v).bcds = s.bcds := rfl
@[simp] theorem State.respond_addrs (s : State) (v : Value) : (s.respond v).addrs = s.addrs := rfl
@[simp] theorem State.respond_recs (s : State) (v : Value) : (s.respond v).recs = s.recs := rfl
@[simp] theorem State.respond_vdss (s : State) (v : Value) : (s.respond v).vdss = s.vdss := rfl
@[simp] theorem State.respond_msgs (s : State) (v : Value) : (s.respond v).msgs = s.msgs := rfl
@[simp] theorem State.respond_tpIn (s : State) (v : Value) : (s.respond v).tpIn = s.tpIn := rfl
@[simp] theorem State.respond_tpOut (s : State) (v : Value) : (s.respond v).tpOut = s.tpOut := rfl
@[simp] theorem State.respond_evts (s : State) (v : Value) : (s.respond v).evts = s.evts := rfl
@[simp] theorem State.respond_listener (s : State) (v : Value) : (s.respond v).listener = s.listener := rfl
@[simp] theorem State.respond_inp (s : State) (v : Value) : (s.respond v).inp = s.inp := rfl
@[simp] theorem State.respond_resp (s : State) (v : Value) : (s.respond v).resp = some (.result v) := rfl
@[simp] theorem State.respond_free (s : State) (v : Value) : (s.respond v).free = s.free := rfl

/-! ### `State.raise` -/

@[simp] theorem State.raise_kind (s : State) (c : Cause) : (s.raise c).kind = s.kind := rfl
@[simp] theorem State.raise_port (s : State) (c : Cause) : (s.raise c).port = s.port := rfl
@[simp] theorem State.raise_params (s : State) (c : Cause) : (s.raise c).params = s.params := rfl
@[simp] theorem State.raise_fcb (s : State) (c : Cause) : (s.raise c).fcb = s.fcb := rfl
@[simp] theorem State.raise_keymap (s : State) (c : Cause) : (s.raise c).keymap = s.keymap := rfl
@[simp] theorem State.raise_lastTx (s : State) (c : Cause) : (s.raise c).lastTx = s.lastTx := rfl
@[simp] theorem State.raise_link (s : State) (c : Cause) : (s.raise c).link = s.link := rfl
@[simp] theorem State.raise_scanner (s : State) (c : Cause) : (s.raise c).scanner = s.scanner := rfl
@[simp] theorem State.raise_bcds (s : State) (c : Cause) : (s.raise c).bcds = s.bcds := rfl
@[simp] theorem State.raise_addrs (s : State) (c : Cause) : (s.raise c).addrs = s.addrs := rfl
@[simp] theorem State.raise_recs (s : State) (c : Cause) : (s.raise c).recs = s.recs := rfl
@[simp] theorem State.raise_vdss (s : State) (c : Cause) : (s.raise c).vdss = s.vdss := rfl
@[simp] theorem State.raise_msgs (s : State) (c : Cause) : (s.raise c).msgs = s.msgs := rfl
@[simp] theorem State.raise_tpIn (s : State) (c : Cause) : (s.raise c).tpIn = s.tpIn := rfl
@[simp] theorem State.raise_tpOut (s : State) (c : Cause) : (s.raise c).tpOut = s.tpOut := rfl
@[simp] theorem State.raise_evts (s : State) (c : Cause) : (s.raise c).evts = s.evts := rfl
@[simp] theorem State.raise_listener (s : State) (c : Cause) : (s.raise c).listener = s.listener := rfl
@[simp] theorem State.raise_inp (s : State) (c : Cause) : (s.raise c).inp = s.inp := rfl
@[simp] theorem State.raise_resp (s : State) (c : Cause) : (s.raise c).resp = some (.exception c) := rfl
@[simp] theorem State.raise_free (s : State) (c : Cause) : (s.raise c).free = s.free := rfl

/-! ### `State.tpWrite` -/

@[simp] theorem State.tpWrite_kind (s : State) (f : Bytes) : (s.tpWrite f).kind = s.kind := rfl
@[simp] theorem State.tpWrite_port (s : State) (f : Bytes) : (s.tpWrite f).port = s.port := rfl
@[simp] theorem State.tpWrite_params (s : State) (f : Bytes) : (s.tpWrite f).params = s.params := rfl
@[simp] theorem State.tpWrite_fcb (s : State) (f : Bytes) : (s.tpWrite f).fcb = s.fcb := rfl
@[simp] theorem State.tpWrite_keymap (s : State) (f : Bytes) : (s.tpWrite f).keymap = s.keymap := rfl
@[simp] theorem State.tpWrite_lastTx (s : State) (f : Bytes) : (s.tpWrite f).lastTx = s.lastTx := rfl
@[simp] theorem State.tpWrite_link (s : State) (f : Bytes) : (s.tpWrite f).link = s.link := rfl
@[simp] theorem State.tpWrite_scanner (s : State) (f : Bytes) : (s.tpWrite f).scanner = s.scanner := rfl
@[simp] theorem State.tpWrite_bcds (s : State) (f : Bytes) : (s.tpWrite f).bcds = s.bcds := rfl
@[simp] theorem State.tpWrite_addrs (s : State) (f : Bytes) : (s.tpWrite f).addrs = s.addrs := rfl
@[simp] theorem State.tpWrite_recs (s : State) (f : Bytes) : (s.tpWrite f).recs = s.recs := rfl
@[simp] theorem State.tpWrite_vdss (s : State) (f : Bytes) : (s.tpWrite f).vdss = s.vdss := rfl
@[simp] theorem State.tpWrite_msgs (s : State) (f : Bytes) : (s.tpWrite f).msgs = s.msgs := rfl
@[simp] theorem State.tpWrite_tpIn (s : State) (f : Bytes) : (s.tpWrite f).tpIn = s.tpIn := rfl
@[simp] theorem State.tpWrite_tpOut (s : State) (f : Bytes) : (s.tpWrite f).tpOut = s.tpOut ++ [f] := rfl
@[simp] theorem State.tpWrite_evts (s : State) (f : Bytes) : (s.tpWrite f).evts = s.evts := rfl
@[simp] theorem State.tpWrite_listener (s : State) (f : Bytes) : (s.tpWrite f).listener = s.listener := rfl
@[simp] theorem State.tpWrite_inp (s : State) (f : Bytes) : (s.tpWrite f).inp = s.inp := rfl
@[simp] theorem State.tpWrite_resp (s : State) (f : Bytes) : (s.tpWrite f).resp = s.resp := rfl
@[simp] theorem State.tpWrite_free (s : State) (f : Bytes) : (s.tpWrite f).free = s.free := rfl

/-! ### `State.transmit` -/

@[simp] theorem State.transmit_kind (s : State) (f : Bytes) : (s.transmit f).kind = s.kind := rfl
@[simp] theorem State.transmit_port (s : State) (f : Bytes) : (s.transmit f).port = s.port := rfl
@[simp] theorem State.transmit_params (s : State) (f : Bytes) : (s.transmit f).params = s.params := rfl
@[simp] theorem State.transmit_fcb (s : State) (f : Bytes) : (s.transmit f).fcb = s.fcb := rfl
@[simp] theorem State.transmit_keymap (s : State) (f : Bytes) : (s.transmit f).keymap = s.keymap := rfl
@[simp] theorem State.transmit_lastTx (s : State) (f : Bytes) : (s.transmit f).lastTx = some f := rfl
@[simp] theorem State.transmit_link (s : State) (f : Bytes) : (s.transmit f).link = s.link := rfl
@[simp] theorem State.transmit_scanner (s : State) (f : Bytes) : (s.transmit f).scanner = s.scanner := rfl
@[simp] theorem State.transmit_bcds (s : State) (f : Bytes) : (s.transmit f).bcds = s.bcds := rfl
@[simp] theorem State.transmit_addrs (s : State) (f : Bytes) : (s.transmit f).addrs = s.addrs := rfl
@[simp] theorem State.transmit_recs (s : State) (f : Bytes) : (s.transmit f).recs = s.recs := rfl
@[simp] theorem State.transmit_vdss (s : State) (f : Bytes) : (s.transmit f).vdss = s.vdss := rfl
@[simp] theorem State.transmit_msgs (s : State) (f : Bytes) : (s.transmit f).msgs = s.msgs := rfl
@[simp] theorem State.transmit_tpIn (s : State) (f : Bytes) : (s.transmit f).tpIn = s.tpIn := rfl
@[simp] theorem State.transmit_tpOut (s : State) (f : Bytes) : (s.transmit f).tpOut = s.tpOut ++ [f] := rfl
@[simp] theorem State.transmit_evts (s : State) (f : Bytes) : (s.transmit f).evts = s.evts := rfl
@[simp] theorem State.transmit_listener (s : State) (f : Bytes) : (s.transmit f).listener = s.listener := rfl
@[simp] theorem State.transmit_inp (s : State) (f : Bytes) : (s.transmit f).inp = s.inp := rfl
@[simp] theorem State.transmit_resp (s : State) (f : Bytes) : (s.transmit f).resp = s.resp := rfl
@[simp] theorem State.transmit_free (s : State) (f : Bytes) : (s.transmit f).free = s.free := rfl

/-! ### `State.setLink` -/

@[simp] theorem State.setLink_kind (s : State) (x : LinkState) : (s.setLink x).kind = s.kind := rfl
@[simp] theorem State.setLink_port (s : State) (x : LinkState) : (s.setLink x).port = s.port := rfl
@[simp] theorem State.setLink_params (s : State) (x : LinkState) : (s.setLink x).params = s.params := rfl
@[simp] theorem State.setLink_fcb (s : State) (x : LinkState) : (s.setLink x).fcb = s.fcb := rfl
@[simp] theorem State.setLink_keymap (s : State) (x : LinkState) : (s.setLink x).keymap = s.keymap := rfl
@[simp] theorem State.setLink_lastTx (s : State) (x : LinkState) : (s.setLink x).lastTx = s.lastTx := rfl
@[simp] theorem State.setLink_link (s : State) (x : LinkState) : (s.setLink x).link = x := rfl
@[simp] theorem State.setLink_scanner (s : State) (x : LinkState) : (s.setLink x).scanner = s.scanner := rfl
@[simp] theorem State.setLink_bcds (s : State) (x : LinkState) : (s.setLink x).bcds = s.bcds := rfl
@[simp] theorem State.setLink_addrs (s : State) (x : LinkState) : (s.setLink x).addrs = s.addrs := rfl
@[simp] theorem State.setLink_recs (s : State) (x : LinkState) : (s.setLink x).recs = s.recs := rfl
@[simp] theorem State.setLink_vdss (s : State) (x : LinkState) : (s.setLink x).vdss = s.vdss := rfl
@[simp] theorem State.setLink_msgs (s : State) (x : LinkState) : (s.setLink x).msgs = s.msgs := rfl
@[simp] theorem State.setLink_tpIn (s : State) (x : LinkState) : (s.setLink x).tpIn = s.tpIn := rfl
@[simp] theorem State.setLink_tpOut (s : State) (x : LinkState) : (s.setLink x).tpOut = s.tpOut := rfl
@[simp] theorem State.setLink_evts (s : State) (x : LinkState) : (s.setLink x).evts = s.evts := rfl
@[simp] theorem State.setLink_listener (s : State) (x : LinkState) : (s.setLink x).listener = s.listener := rfl
@[simp] theorem State.setLink_inp (s : State) (x : LinkState) : (s.setLink x).inp = s.inp := rfl
@[simp] theorem State.setLink_resp (s : State) (x : LinkState) : (s.setLink x).resp = s.resp := rfl
@[simp] theorem State.setLink_free (s : State) (x : LinkState) : (s.setLink x).free = s.free := rfl

/-! ### `State.setScanner` -/

@[simp] theorem State.setScanner_kind (s : State) (sc : Scanner) : (s.setScanner sc).kind = s.kind := rfl
@[simp] theorem State.setScanner_port (s : State) (sc : Scanner) : (s.setScanner sc).port = s.port := rfl
@[simp] theorem State.setScanner_params (s : State) (sc : Scanner) : (s.setScanner sc).params = s.params := rfl
@[simp] theorem State.setScanner_fcb (s : State) (sc : Scanner) : (s.setScanner sc).fcb = s.fcb := rfl
@[simp] theorem State.setScanner_keymap (s : State) (sc : Scanner) : (s.setScanner sc).keymap = s.keymap := rfl
@[simp] theorem State.setScanner_lastTx (s : State) (sc : Scanner) : (s.setScanner sc).lastTx = s.lastTx := rfl
@[simp] theorem State.setScanner_link (s : State) (sc : Scanner) : (s.setScanner sc).link = s.link := rfl
@[simp] theorem State.setScanner_scanner (s : State) (sc : Scanner) : (s.setScanner sc).scanner = sc := rfl
@[simp] theorem State.setScanner_bcds (s : State) (sc : Scanner) : (s.setScanner sc).bcds = s.bcds := rfl
@[simp] theorem State.setScanner_addrs (s : State) (sc : Scanner) : (s.setScanner sc).addrs = s.addrs := rfl
@[simp] theorem State.setScanner_recs (s : State) (sc : Scanner) : (s.setScanner sc).recs = s.recs := rfl
@[simp] theorem State.setScanner_vdss (s : State) (sc : Scanner) : (s.setScanner sc).vdss = s.vdss := rfl
@[simp] theorem State.setScanner_msgs (s : State) (sc : Scanner) : (s.setScanner sc).msgs = s.msgs := rfl
@[simp] theorem State.setScanner_tpIn (s : State) (sc : Scanner) : (s.setScanner sc).tpIn = s.tpIn := rfl
@[simp] theorem State.setScanner_tpOut (s : State) (sc : Scanner) : (s.setScanner sc).tpOut = s.tpOut := rfl
@[simp] theorem State.setScanner_evts (s : State) (sc : Scanner) : (s.setScanner sc).evts = s.evts := rfl
@[simp] theorem State.setScanner_listener (s : State) (sc : Scanner) : (s.setScanner sc).listener = s.listener := rfl
@[simp] theorem State.setScanner_inp (s : State) (sc : Scanner) : (s.setScanner sc).inp = s.inp := rfl
@[simp] theorem State.setScanner_resp (s : State) (sc : Scanner) : (s.setScanner sc).resp = s.resp := rfl
@[simp] theorem State.setScanner_free (s : State) (sc : Scanner) : (s.setScanner sc).free = s.free := rfl

/-! ### `State.setFcb` -/

@[simp] theorem State.setFcb_kind (s : State) (x : BitVec 256) : (s.setFcb x).kind = s.kind := rfl
@[simp] theorem State.setFcb_port (s : State) (x : BitVec 256) : (s.setFcb x).port = s.port := rfl
@[simp] theorem State.setFcb_params (s : State) (x : BitVec 256) : (s.setFcb x).params = s.params := rfl
@[simp] theorem State.setFcb_fcb (s : State) (x : BitVec 256) : (s.setFcb x).fcb = x := rfl
@[simp] theorem State.setFcb_keymap (s : State) (x : BitVec 256) : (s.setFcb x).keymap = s.keymap := rfl
@[simp] theorem State.setFcb_lastTx (s : State) (x : BitVec 256) : (s.setFcb x).lastTx = s.lastTx := rfl
@[simp] theorem State.setFcb_link (s : State) (x : BitVec 256) : (s.setFcb x).link = s.link := rfl
@[simp] theorem State.setFcb_scanner (s : State) (x : BitVec 256) : (s.setFcb x).scanner = s.scanner := rfl
@[simp] theorem State.setFcb_bcds (s : State) (x : BitVec 256) : (s.setFcb x).bcds = s.bcds := rfl
@[simp] theorem State.setFcb_addrs (s : State) (x : BitVec 256) : (s.setFcb x).addrs = s.addrs := rfl
@[simp] theorem State.setFcb_recs (s : State) (x : BitVec 256) : (s.setFcb x).recs = s.recs := rfl
@[simp] theorem State.setFcb_vdss (s : State) (x : BitVec 256) : (s.setFcb x).vdss = s.vdss := rfl
@[simp] theorem State.setFcb_msgs (s : State) (x : BitVec 256) : (s.setFcb x).msgs = s.msgs := rfl
@[simp] theorem State.setFcb_tpIn (s : State) (x : BitVec 256) : (s.setFcb x).tpIn = s.tpIn := rfl
@[simp] theorem State.setFcb_tpOut (s : State) (x : BitVec 256) : (s.setFcb x).tpOut = s.tpOut := rfl
@[simp] theorem State.setFcb_evts (s : State) (x : BitVec 256) : (s.setFcb x).evts = s.evts := rfl
@[simp] theorem State.setFcb_listener (s : State) (x : BitVec 256) : (s.setFcb x).listener = s.listener := rfl
@[simp] theorem State.setFcb_inp (s : State) (x : BitVec 256) : (s.setFcb x).inp = s.inp := rfl
@[simp] theorem State.setFcb_resp (s : State) (x : BitVec 256) : (s.setFcb x).resp = s.resp := rfl
@[simp] theorem State.setFcb_free (s : State) (x : BitVec 256) : (s.setFcb x).free = s.free := rfl

/-! ### `State.setKeymap` -/

@[simp] theorem State.setKeymap_kind (s : State) (m : KeyMap) : (s.setKeymap m).kind = s.kind := rfl
@[simp] theorem State.setKeymap_port (s : State) (m : KeyMap) : (s.setKeymap m).port = s.port := rfl
@[simp] theorem State.setKeymap_params (s : State) (m : KeyMap) : (s.setKeymap m).params = s.params := rfl
@[simp] theorem State.setKeymap_fcb (s : State) (m : KeyMap) : (s.setKeymap m).fcb = s.fcb := rfl
@[simp] theorem State.setKeymap_keymap (s : State) (m : KeyMap) : (s.setKeymap m).keymap = m := rfl
@[simp] theorem State.setKeymap_lastTx (s : State) (m : KeyMap) : (s.setKeymap m).lastTx = s.lastTx := rfl
@[simp] theorem State.setKeymap_link (s : State) (m : KeyMap) : (s.setKeymap m).link = s.link := rfl
@[simp] theorem State.setKeymap_scanner (s : State) (m : KeyMap) : (s.setKeymap m).scanner = s.scanner := rfl
@[simp] theorem State.setKeymap_bcds (s : State) (m : KeyMap) : (s.setKeymap m).bcds = s.bcds := rfl
@[simp] theorem State.setKeymap_addrs (s : State) (m : KeyMap) : (s.setKeymap m).addrs = s.addrs := rfl
@[simp] theorem State.setKeymap_recs (s : State) (m : KeyMap) : (s.setKeymap m).recs = s.recs := rfl
@[simp] theorem State.setKeymap_vdss (s : State) (m : KeyMap) : (s.setKeymap m).vdss = s.vdss := rfl
@[simp] theorem State.setKeymap_msgs (s : State) (m : KeyMap) : (s.setKeymap m).msgs = s.msgs := rfl
@[simp] theorem State.setKeymap_tpIn (s : State) (m : KeyMap) : (s.setKeymap m).tpIn = s.tpIn := rfl
@[simp] theorem State.setKeymap_tpOut (s : State) (m : KeyMap) : (s.setKeymap m).tpOut = s.tpOut := rfl
@[simp] theorem State.setKeymap_evts (s : State) (m : KeyMap) : (s.setKeymap m).evts = s.evts := rfl
@[simp] theorem State.setKeymap_listener (s : State) (m : KeyMap) : (s.setKeymap m).listener = s.listener := rfl
@[simp] theorem State.setKeymap_inp (s : State) (m : KeyMap) : (s.setKeymap m).inp = s.inp := rfl
@[simp] theorem State.setKeymap_resp (s : State) (m : KeyMap) : (s.setKeymap m).resp = s.resp := rfl
@[simp] theorem State.setKeymap_free (s : State) (m : KeyMap) : (s.setKeymap m).free = s.free := rfl

/-! ### `State.addBcd` -/

@[simp] theorem State.addBcd_kind (s : State) (b : Bcd) : (s.addBcd b).kind = s.kind := rfl
@[simp] theorem State.addBcd_port (s : State) (b : Bcd) : (s.addBcd b).port = s.port := rfl
@[simp] theorem State.addBcd_params (s : State) (b : Bcd) : (s.addBcd b).params = s.params := rfl
@[simp] theorem State.addBcd_fcb (s : State) (b : Bcd) : (s.addBcd b).fcb = s.fcb := rfl
@[simp] theorem State.addBcd_keymap (s : State) (b : Bcd) : (s.addBcd b).keymap = s.keymap := rfl
@[simp] theorem State.addBcd_lastTx (s : State) (b : Bcd) : (s.addBcd b).lastTx = s.lastTx := rfl
@[simp] theorem State.addBcd_link (s : State) (b : Bcd) : (s.addBcd b).link = s.link := rfl
@[simp] theorem State.addBcd_scanner (s : State) (b : Bcd) : (s.addBcd b).scanner = s.scanner := rfl
@[simp] theorem State.addBcd_bcds (s : State) (b : Bcd) : (s.addBcd b).bcds = s.bcds ++ [b] := rfl
@[simp] theorem State.addBcd_addrs (s : State) (b : Bcd) : (s.addBcd b).addrs = s.addrs := rfl
@[simp] theorem State.addBcd_recs (s : State) (b : Bcd) : (s.addBcd b).recs = s.recs := rfl
@[simp] theorem State.addBcd_vdss (s : State) (b : Bcd) : (s.addBcd b).vdss = s.vdss := rfl
@[simp] theorem State.addBcd_msgs (s : State) (b : Bcd) : (s.addBcd b).msgs = s.msgs := rfl
@[simp] theorem State.addBcd_tpIn (s : State) (b : Bcd) : (s.addBcd b).tpIn = s.tpIn := rfl
@[simp] theorem State.addBcd_tpOut (s : State) (b : Bcd) : (s.addBcd b).tpOut = s.tpOut := rfl
@[simp] theorem State.addBcd_evts (s : State) (b : Bcd) : (s.addBcd b).evts = s.evts := rfl
@[simp] theorem State.addBcd_listener (s : State) (b : Bcd) : (s.addBcd b).listener = s.listener := rfl
@[simp] theorem State.addBcd_inp (s : State) (b : Bcd) : (s.addBcd b).inp = s.inp := rfl
@[simp] theorem State.addBcd_resp (s : State) (b : Bcd) : (s.addBcd b).resp = s.resp := rfl
@[simp] theorem State.addBcd_free (s : State) (b : Bcd) : (s.addBcd b).free = s.free := rfl

/-! ### `State.addAddr` -/

@[simp] theorem State.addAddr_kind (s : State) (a : SecondaryAddress) : (s.addAddr a).kind = s.kind := rfl
@[simp] theorem State.addAddr_port (s : State) (a : SecondaryAddress) : (s.addAddr a).port = s.port := rfl
@[simp] theorem State.addAddr_params (s : State) (a : SecondaryAddress) : (s.addAddr a).params = s.params := rfl
@[simp] theorem State.addAddr_fcb (s : State) (a : SecondaryAddress) : (s.addAddr a).fcb = s.fcb := rfl
@[simp] theorem State.addAddr_keymap (s : State) (a : SecondaryAddress) : (s.addAddr a).keymap = s.keymap := rfl
@[simp] theorem State.addAddr_lastTx (s : State) (a : SecondaryAddress) : (s.addAddr a).lastTx = s.lastTx := rfl
@[simp] theorem State.addAddr_link (s : State) (a : SecondaryAddress) : (s.addAddr a).link = s.link := rfl
@[simp] theorem State.addAddr_scanner (s : State) (a : SecondaryAddress) : (s.addAddr a).scanner = s.scanner := rfl
@[simp] theorem State.addAddr_bcds (s : State) (a : SecondaryAddress) : (s.addAddr a).bcds = s.bcds := rfl
@[simp] theorem State.addAddr_addrs (s : State) (a : SecondaryAddress) : (s.addAddr a).addrs = s.addrs ++ [a] := rfl
@[simp] theorem State.addAddr_recs (s : State) (a : SecondaryAddress) : (s.addAddr a).recs = s.recs := rfl
@[simp] theorem State.addAddr_vdss (s : State) (a : SecondaryAddress) : (s.addAddr a).vdss = s.vdss := rfl
@[simp] theorem State.addAddr_msgs (s : State) (a : SecondaryAddress) : (s.addAddr a).msgs = s.msgs := rfl
@[simp] theorem State.addAddr_tpIn (s : State) (a : SecondaryAddress) : (s.addAddr a).tpIn = s.tpIn := rfl
@[simp] theorem State.addAddr_tpOut (s : State) (a : SecondaryAddress) : (s.addAddr a).tpOut = s.tpOut := rfl
@[simp] theorem State.addAddr_evts (s : State) (a : SecondaryAddress) : (s.addAddr a).evts = s.evts := rfl
@[simp] theorem State.addAddr_listener (s : State) (a : SecondaryAddress) : (s.addAddr a).listener = s.listener := rfl
@[simp] theorem State.addAddr_inp (s : State) (a : SecondaryAddress) : (s.addAddr a).inp = s.inp := rfl
@[simp] theorem State.addAddr_resp (s : State) (a : SecondaryAddress) : (s.addAddr a).resp = s.resp := rfl
@[simp] theorem State.addAddr_free (s : State) (a : SecondaryAddress) : (s.addAddr a).free = s.free := rfl

/-! ### `State.addRec` -/

@[simp] theorem State.addRec_kind (s : State) (r : DataRecord) : (s.addRec r).kind = s.kind := rfl
@[simp] theorem State.addRec_port (s : State) (r : DataRecord) : (s.addRec r).port = s.port := rfl
@[simp] theorem State.addRec_params (s : State) (r : DataRecord) : (s.addRec r).params = s.params := rfl
@[simp] theorem State.addRec_fcb (s : State) (r : DataRecord) : (s.addRec r).fcb = s.fcb := rfl
@[simp] theorem State.addRec_keymap (s : State) (r : DataRecord) : (s.addRec r).keymap = s.keymap := rfl
@[simp] theorem State.addRec_lastTx (s : State) (r : DataRecord) : (s.addRec r).lastTx = s.lastTx := rfl
@[simp] theorem State.addRec_link (s : State) (r : DataRecord) : (s.addRec r).link = s.link := rfl
@[simp] theorem State.addRec_scanner (s : State) (r : DataRecord) : (s.addRec r).scanner = s.scanner := rfl
@[simp] theorem State.addRec_bcds (s : State) (r : DataRecord) : (s.addRec r).bcds = s.bcds := rfl
@[simp] theorem State.addRec_addrs (s : State) (r : DataRecord) : (s.addRec r).addrs = s.addrs := rfl
@[simp] theorem State.addRec_recs (s : State) (r : DataRecord) : (s.addRec r).recs = s.recs ++ [r] := rfl
@[simp] theorem State.addRec_vdss (s : State) (r : DataRecord) : (s.addRec r).vdss = s.vdss := rfl
@[simp] theorem State.addRec_msgs (s : State) (r : DataRecord) : (s.addRec r).msgs = s.msgs := rfl
@[simp] theorem State.addRec_tpIn (s : State) (r : DataRecord) : (s.addRec r).tpIn = s.tpIn := rfl
@[simp] theorem State.addRec_tpOut (s : State) (r : DataRecord) : (s.addRec r).tpOut = s.tpOut := rfl
@[simp] theorem State.addRec_evts (s : State) (r : DataRecord) : (s.addRec r).evts = s.evts := rfl
@[simp] theorem State.addRec_listener (s : State) (r : DataRecord) : (s.addRec r).listener = s.listener := rfl
@[simp] theorem State.addRec_inp (s : State) (r : DataRecord) : (s.addRec r).inp = s.inp := rfl
@[simp] theorem State.addRec_resp (s : State) (r : DataRecord) : (s.addRec r).resp = s.resp := rfl
@[simp] theorem State.addRec_free (s : State) (r : DataRecord) : (s.addRec r).free = s.free := rfl

/-! ### `State.addVds` -/

@[simp] theorem State.addVds_kind (s : State) (v : Vds) : (s.addVds v).kind = s.kind := rfl
@[simp] theorem State.addVds_port (s : State) (v : Vds) : (s.addVds v).port = s.port := rfl
@[simp] theorem State.addVds_params (s : State) (v : Vds) : (s.addVds v).params = s.params := rfl
@[simp] theorem State.addVds_fcb (s : State) (v : Vds) : (s.addVds v).fcb = s.fcb := rfl
@[simp] theorem State.addVds_keymap (s : State) (v : Vds) : (s.addVds v).keymap = s.keymap := rfl
@[simp] theorem State.addVds_lastTx (s : State) (v : Vds) : (s.addVds v).lastTx = s.lastTx := rfl
@[simp] theorem State.addVds_link (s : State) (v : Vds) : (s.addVds v).link = s.link := rfl
@[simp] theorem State.addVds_scanner (s : State) (v : Vds) : (s.addVds v).scanner = s.scanner := rfl
@[simp] theorem State.addVds_bcds (s : State) (v : Vds) : (s.addVds v).bcds = s.bcds := rfl
@[simp] theorem State.addVds_addrs (s : State) (v : Vds) : (s.addVds v).addrs = s.addrs := rfl
@[simp] theorem State.addVds_recs (s : State) (v : Vds) : (s.addVds v).recs = s.recs := rfl
@[simp] theorem State.addVds_vdss (s : State) (v : Vds) : (s.addVds v).vdss = s.vdss ++ [v] := rfl
@[simp] theorem State.addVds_msgs (s : State) (v : Vds) : (s.addVds v).msgs = s.msgs := rfl
@[simp] theorem State.addVds_tpIn (s : State) (v : Vds) : (s.addVds v).tpIn = s.tpIn := rfl
@[simp] theorem State.addVds_tpOut (s : State) (v : Vds) : (s.addVds v).tpOut = s.tpOut := rfl
@[simp] theorem State.addVds_evts (s : State) (v : Vds) : (s.addVds v).evts = s.evts := rfl
@[simp] theorem State.addVds_listener (s : State) (v : Vds) : (s.addVds v).listener = s.listener := rfl
@[simp] theorem State.addVds_inp (s : State) (v : Vds) : (s.addVds v).inp = s.inp := rfl
@[simp] theorem State.addVds_resp (s : State) (v : Vds) : (s.addVds v).resp = s.resp := rfl
@[simp] theorem State.addVds_free (s : State) (v : Vds) : (s.addVds v).free = s.free := rfl

/-! ### `State.setVds` -/

@[simp] theorem State.setVds_kind (s : State) (n : Nat) (v : Vds) : (s.setVds n v).kind = s.kind := rfl
@[simp] theorem State.setVds_port (s : State) (n : Nat) (v : Vds) : (s.setVds n v).port = s.port := rfl
@[simp] theorem State.setVds_params (s : State) (n : Nat) (v : Vds) : (s.setVds n v).params = s.params := rfl
@[simp] theorem State.setVds_fcb (s : State) (n : Nat) (v : Vds) : (s.setVds n v).fcb = s.fcb := rfl
@[simp] theorem State.setVds_keymap (s : State) (n : Nat) (v : Vds) : (s.setVds n v).keymap = s.keymap := rfl
@[simp] theorem State.setVds_lastTx (s : State) (n : Nat) (v : Vds) : (s.setVds n v).lastTx = s.lastTx := rfl
@[simp] theorem State.setVds_link (s : State) (n : Nat) (v : Vds) : (s.setVds n v).link = s.link := rfl
@[simp] theorem State.setVds_scanner (s : State) (n : Nat) (v : Vds) : (s.setVds n v).scanner = s.scanner := rfl
@[simp] theorem State.setVds_bcds (s : State) (n : Nat) (v : Vds) : (s.setVds n v).bcds = s.bcds := rfl
@[simp] theorem State.setVds_addrs (s : State) (n : Nat) (v : Vds) : (s.setVds n v).addrs = s.addrs := rfl
@[simp] theorem State.setVds_recs (s : State) (n : Nat) (v : Vds) : (s.setVds n v).recs = s.recs := rfl
@[simp] theorem State.setVds_vdss (s : State) (n : Nat) (v : Vds) : (s.setVds n v).vdss = s.vdss.set n v := rfl
@[simp] theorem State.setVds_msgs (s : State) (n : Nat) (v : Vds) : (s.setVds n v).msgs = s.msgs := rfl
@[simp] theorem State.setVds_tpIn (s : State) (n : Nat) (v : Vds) : (s.setVds n v).tpIn = s.tpIn := rfl
@[simp] theorem State.setVds_tpOut (s : State) (n : Nat) (v : Vds) : (s.setVds n v).tpOut = s.tpOut := rfl
@[simp] theorem State.setVds_evts (s : State) (n : Nat) (v : Vds) : (s.setVds n v).evts = s.evts := rfl
@[simp] theorem State.setVds_listener (s : State) (n : Nat) (v : Vds) : (s.setVds n v).listener = s.listener := rfl
@[simp] theorem State.setVds_inp (s : State) (n : Nat) (v : Vds) : (s.setVds n v).inp = s.inp := rfl
@[simp] theorem State.setVds_resp (s : State) (n : Nat) (v : Vds) : (s.setVds n v).resp = s.resp := rfl
@[simp] theorem State.setVds_free (s : State) (n : Nat) (v : Vds) : (s.setVds n v).free = s.free := rfl

/-! ### `State.addMsg` -/

@[simp] theorem State.addMsg_kind (s : State) (m : WlMessage) : (s.addMsg m).kind = s.kind := rfl
@[simp] theorem State.addMsg_port (s : State) (m : WlMessage) : (s.addMsg m).port = s.port := rfl
@[simp] theorem State.addMsg_params (s : State) (m : WlMessage) : (s.addMsg m).params = s.params := rfl
@[simp] theorem State.addMsg_fcb (s : State) (m : WlMessage) : (s.addMsg m).fcb = s.fcb := rfl
@[simp] theorem State.addMsg_keymap (s : State) (m : WlMessage) : (s.addMsg m).keymap = s.keymap := rfl
@[simp] theorem State.addMsg_lastTx (s : State) (m : WlMessage) : (s.addMsg m).lastTx = s.lastTx := rfl
@[simp] theorem State.addMsg_link (s : State) (m : WlMessage) : (s.addMsg m).link = s.link := rfl
@[simp] theorem State.addMsg_scanner (s : State) (m : WlMessage) : (s.addMsg m).scanner = s.scanner := rfl
@[simp] theorem State.addMsg_bcds (s : State) (m : WlMessage) : (s.addMsg m).bcds = s.bcds := rfl
@[simp] theorem State.addMsg_addrs (s : State) (m : WlMessage) : (s.addMsg m).addrs = s.addrs := rfl
@[simp] theorem State.addMsg_recs (s : State) (m : WlMessage) : (s.addMsg m).recs = s.recs := rfl
@[simp] theorem State.addMsg_vdss (s : State) (m : WlMessage) : (s.addMsg m).vdss = s.vdss := rfl
@[simp] theorem State.addMsg_msgs (s : State) (m : WlMessage) : (s.addMsg m).msgs = s.msgs ++ [m] := rfl
@[simp] theorem State.addMsg_tpIn (s : State) (m : WlMessage) : (s.addMsg m).tpIn = s.tpIn := rfl
@[simp] theorem State.addMsg_tpOut (s : State) (m : WlMessage) : (s.addMsg m).tpOut = s.tpOut := rfl
@[simp] theorem State.addMsg_evts (s : State) (m : WlMessage) : (s.addMsg m).evts = s.evts := rfl
@[simp] theorem State.addMsg_listener (s : State) (m : WlMessage) : (s.addMsg m).listener = s.listener := rfl
@[simp] theorem State.addMsg_inp (s : State) (m : WlMessage) : (s.addMsg m).inp = s.inp := rfl
@[simp] theorem State.addMsg_resp (s : State) (m : WlMessage) : (s.addMsg m).resp = s.resp := rfl
@[simp] theorem State.addMsg_free (s : State) (m : WlMessage) : (s.addMsg m).free = s.free := rfl

/-! ### `State.setMsg` -/

@[simp] theorem State.setMsg_kind (s : State) (n : Nat) (m : WlMessage) : (s.setMsg n m).kind = s.kind := rfl
@[simp] theorem State.setMsg_port (s : State) (n : Nat) (m : WlMessage) : (s.setMsg n m).port = s.port := rfl
@[simp] theorem State.setMsg_params (s : State) (n : Nat) (m : WlMessage) : (s.setMsg n m).params = s.params := rfl
@[simp] theorem State.setMsg_fcb (s : State) (n : Nat) (m : WlMessage) : (s.setMsg n m).fcb = s.fcb := rfl
@[simp] theorem State.setMsg_keymap (s : State) (n : Nat) (m : WlMessage) : (s.setMsg n m).keymap = s.keymap := rfl
@[simp] theorem State.setMsg_lastTx (s : State) (n : Nat) (m : WlMessage) : (s.setMsg n m).lastTx = s.lastTx := rfl
@[simp] theorem State.setMsg_link (s : State) (n : Nat) (m : WlMessage) : (s.setMsg n m).link = s.link := rfl
@[simp] theorem State.setMsg_scanner (s : State) (n : Nat) (m : WlMessage) : (s.setMsg n m).scanner = s.scanner := rfl
@[simp] theorem State.setMsg_bcds (s : State) (n : Nat) (m : WlMessage) : (s.setMsg n m).bcds = s.bcds := rfl
@[simp] theorem State.setMsg_addrs (s : State) (n : Nat) (m : WlMessage) : (s.setMsg n m).addrs = s.addrs := rfl
@[simp] theorem State.setMsg_recs (s : State) (n : Nat) (m : WlMessage) : (s.setMsg n m).recs = s.recs := rfl
@[simp] theorem State.setMsg_vdss (s : State) (n : Nat) (m : WlMessage) : (s.setMsg n m).vdss = s.vdss := rfl
@[simp] theorem State.setMsg_msgs (s : State) (n : Nat) (m : WlMessage) : (s.setMsg n m).msgs = s.msgs.set n m := rfl
@[simp] theorem State.setMsg_tpIn (s : State) (n : Nat) (m : WlMessage) : (s.setMsg n m).tpIn = s.tpIn := rfl
@[simp] theorem State.setMsg_tpOut (s : State) (n : Nat) (m : WlMessage) : (s.setMsg n m).tpOut = s.tpOut := rfl
@[simp] theorem State.setMsg_evts (s : State) (n : Nat) (m : WlMessage) : (s.setMsg n m).evts = s.evts := rfl
@[simp] theorem State.setMsg_listener (s : State) (n : Nat) (m : WlMessage) : (s.setMsg n m).listener = s.listener := rfl
@[simp] theorem State.setMsg_inp (s : State) (n : Nat) (m : WlMessage) : (s.setMsg n m).inp = s.inp := rfl
@[simp] theorem State.setMsg_resp (s : State) (n : Nat) (m : WlMessage) : (s.setMsg n m).resp = s.resp := rfl
@[simp] theorem State.setMsg_free (s : State) (n : Nat) (m : WlMessage) : (s.setMsg n m).free = s.free := rfl

/-! ### `State.drawFree` -/

@[simp] theorem State.drawFree_kind (s : State) : (s.drawFree).kind = s.kind := rfl
@[simp] theorem State.drawFree_port (s : State) : (s.drawFree).port = s.port := rfl
@[simp] theorem State.drawFree_params (s : State) : (s.drawFree).params = s.params := rfl
@[simp] theorem State.drawFree_fcb (s : State) : (s.drawFree).fcb = s.fcb := rfl
@[simp] theorem State.drawFree_keymap (s : State) : (s.drawFree).keymap = s.keymap := rfl
@[simp] theorem State.drawFree_lastTx (s : State) : (s.drawFree).lastTx = s.lastTx := rfl
@[simp] theorem State.drawFree_link (s : State) : (s.drawFree).link = s.link := rfl
@[simp] theorem State.drawFree_scanner (s : State) : (s.drawFree).scanner = s.scanner := rfl
@[simp] theorem State.drawFree_bcds (s : State) : (s.drawFree).bcds = s.bcds := rfl
@[simp] theorem State.drawFree_addrs (s : State) : (s.drawFree).addrs = s.addrs := rfl
@[simp] theorem State.drawFree_recs (s : State) : (s.drawFree).recs = s.recs := rfl
@[simp] theorem State.drawFree_vdss (s : State) : (s.drawFree).vdss = s.vdss := rfl
@[simp] theorem State.drawFree_msgs (s : State) : (s.drawFree).msgs = s.msgs := rfl
@[simp] theorem State.drawFree_tpIn (s : State) : (s.drawFree).tpIn = s.tpIn := rfl
@[simp] theorem State.drawFree_tpOut (s : State) : (s.drawFree).tpOut = s.tpOut := rfl
@[simp] theorem State.drawFree_evts (s : State) : (s.drawFree).evts = s.evts := rfl
@[simp] theorem State.drawFree_listener (s : State) : (s.drawFree).listener = s.listener := rfl
@[simp] theorem State.drawFree_inp (s : State) : (s.drawFree).inp = s.inp := rfl
@[simp] theorem State.drawFree_resp (s : State) : (s.drawFree).resp = s.resp := rfl
@[simp] theorem State.drawFree_free (s : State) : (s.drawFree).free = s.free + 1 := rfl

/-! ### `State.openSession` -/

@[simp] theorem State.openSession_kind (s : State) (kind : SessionKind) (port : Nat) : (s.openSession kind port).kind = kind := rfl
@[simp] theorem State.openSession_port (s : State) (kind : SessionKind) (port : Nat) : (s.openSession kind port).port = port := rfl
@[simp] theorem State.openSession_params (s : State) (kind : SessionKind) (port : Nat) : (s.openSession kind port).params = s.params := rfl
@[simp] theorem State.openSession_fcb (s : State) (kind : SessionKind) (port : Nat) : (s.openSession kind port).fcb = BitVec.allOnes 256 := rfl
@[simp] theorem State.openSession_keymap (s : State) (kind : SessionKind) (port : Nat) : (s.openSession kind port).keymap = [] := rfl
@[simp] theorem State.openSession_lastTx (s : State) (kind : SessionKind) (port : Nat) : (s.openSession kind port).lastTx = none := rfl
@[simp] theorem State.openSession_link (s : State) (kind : SessionKind) (port : Nat) : (s.openSession kind port).link = .idle := rfl
@[simp] theorem State.openSession_scanner (s : State) (kind : SessionKind) (port : Nat) : (s.openSession kind port).scanner = Scanner.init := rfl
@[simp] theorem State.openSession_bcds (s : State) (kind : SessionKind) (port : Nat) : (s.openSession kind port).bcds = [] := rfl
@[simp] theorem State.openSession_addrs (s : State) (kind : SessionKind) (port : Nat) : (s.openSession kind port).addrs = [] := rfl
@[simp] theorem State.openSession_recs (s : State) (kind : SessionKind) (port : Nat) : (s.openSession kind port).recs = [] := rfl
@[simp] theorem State.openSession_vdss (s : State) (kind : SessionKind) (port : Nat) : (s.openSession kind port).vdss = [] := rfl
@[simp] theorem State.openSession_msgs (s : State) (kind : SessionKind) (port : Nat) : (s.openSession kind port).msgs = [] := rfl
@[simp] theorem State.openSession_tpIn (s : State) (kind : SessionKind) (port : Nat) : (s.openSession kind port).tpIn = s.tpIn := rfl
@[simp] theorem State.openSession_tpOut (s : State) (kind : SessionKind) (port : Nat) : (s.openSession kind port).tpOut = s.tpOut := rfl
@[simp] theorem State.openSession_evts (s : State) (kind : SessionKind) (port : Nat) : (s.openSession kind port).evts = s.evts := rfl
@[simp] theorem State.openSession_listener (s : State) (kind : SessionKind) (port : Nat) : (s.openSession kind port).listener = s.listener := rfl
@[simp] theorem State.openSession_inp (s : State) (kind : SessionKind) (port : Nat) : (s.openSession kind port).inp = s.inp := rfl
@[simp] theorem State.openSession_resp (s : State) (kind : SessionKind) (port : Nat) : (s.openSession kind port).resp = s.resp := rfl
@[simp] theorem State.openSession_free (s : State) (kind : SessionKind) (port : Nat) : (s.openSession kind port).free = s.free := rfl

/-! ### `State.answerScanner` -/

@[simp] theorem State.answerScanner_kind (s : State) : (s.answerScanner).kind = s.kind := rfl
@[simp] theorem State.answerScanner_port (s : State) : (s.answerScanner).port = s.port := rfl
@[simp] theorem State.answerScanner_params (s : State) : (s.answerScanner).params = s.params := rfl
@[simp] theorem State.answerScanner_fcb (s : State) : (s.answerScanner).fcb = s.fcb := rfl
@[simp] theorem State.answerScanner_keymap (s : State) : (s.answerScanner).keymap = s.keymap := rfl
@[simp] theorem State.answerScanner_lastTx (s : State) : (s.answerScanner).lastTx = s.lastTx := rfl
@[simp] theorem State.answerScanner_link (s : State) : (s.answerScanner).link = s.link := rfl
@[simp] theorem State.answerScanner_scanner (s : State) : (s.answerScanner).scanner = s.scanner := rfl
@[simp] theorem State.answerScanner_bcds (s : State) : (s.answerScanner).bcds = s.bcds := rfl
@[simp] theorem State.answerScanner_addrs (s : State) : (s.answerScanner).addrs = s.addrs := rfl
@[simp] theorem State.answerScanner_recs (s : State) : (s.answerScanner).recs = s.recs := rfl
@[simp] theorem State.answerScanner_vdss (s : State) : (s.answerScanner).vdss = s.vdss := rfl
@[simp] theorem State.answerScanner_msgs (s : State) : (s.answerScanner).msgs = s.msgs := rfl
@[simp] theorem State.answerScanner_tpIn (s : State) : (s.answerScanner).tpIn = s.tpIn := rfl
@[simp] theorem State.answerScanner_tpOut (s : State) : (s.answerScanner).tpOut = s.tpOut := rfl
@[simp] theorem State.answerScanner_evts (s : State) : (s.answerScanner).evts = s.evts := rfl
@[simp] theorem State.answerScanner_listener (s : State) : (s.answerScanner).listener = s.listener := rfl
@[simp] theorem State.answerScanner_inp (s : State) : (s.answerScanner).inp = s.inp := rfl
@[simp] theorem State.answerScanner_resp (s : State) : (s.answerScanner).resp = some (.result (.scanner s.scanner.pos s.scanner.value)) := rfl
@[simp] theorem State.answerScanner_free (s : State) : (s.answerScanner).free = s.free := rfl

/-! ### `State.endScan` -/

@[simp] theorem State.endScan_kind (s : State) : (s.endScan).kind = s.kind := rfl
@[simp] theorem State.endScan_port (s : State) : (s.endScan).port = s.port := rfl
@[simp] theorem State.endScan_params (s : State) : (s.endScan).params = s.params := rfl
@[simp] theorem State.endScan_fcb (s : State) : (s.endScan).fcb = s.fcb := rfl
@[simp] theorem State.endScan_keymap (s : State) : (s.endScan).keymap = s.keymap := rfl
@[simp] theorem State.endScan_lastTx (s : State) : (s.endScan).lastTx = s.lastTx := rfl
@[simp] theorem State.endScan_link (s : State) : (s.endScan).link = s.link := rfl
@[simp] theorem State.endScan_scanner (s : State) : (s.endScan).scanner = { s.scanner with running := false } := rfl
@[simp] theorem State.endScan_bcds (s : State) : (s.endScan).bcds = s.bcds := rfl
@[simp] theorem State.endScan_addrs (s : State) : (s.endScan).addrs = s.addrs := rfl
@[simp] theorem State.endScan_recs (s : State) : (s.endScan).recs = s.recs := rfl
@[simp] theorem State.endScan_vdss (s : State) : (s.endScan).vdss = s.vdss := rfl
@[simp] theorem State.endScan_msgs (s : State) : (s.endScan).msgs = s.msgs := rfl
@[simp] theorem State.endScan_tpIn (s : State) : (s.endScan).tpIn = s.tpIn := rfl
@[simp] theorem State.endScan_tpOut (s : State) : (s.endScan).tpOut = s.tpOut := rfl
@[simp] theorem State.endScan_evts (s : State) : (s.endScan).evts = s.evts := rfl
@[simp] theorem State.endScan_listener (s : State) : (s.endScan).listener = s.listener := rfl
@[simp] theorem State.endScan_inp (s : State) : (s.endScan).inp = s.inp := rfl
@[simp] theorem State.endScan_resp (s : State) : (s.endScan).resp = some (.result (.found s.scanner.found)) := rfl
@[simp] theorem State.endScan_free (s : State) : (s.endScan).free = s.free := rfl

/-! ### `State.emit` and `State.scanMessage`: the events, and the number of free values drawn -/

@[simp] theorem State.emit_kind (s : State) (e : Event) : (s.emit e).kind = s.kind := by
  unfold State.emit; split <;> rfl
@[simp] theorem State.emit_port (s : State) (e : Event) : (s.emit e).port = s.port := by
  unfold State.emit; split <;> rfl
@[simp] theorem State.emit_params (s : State) (e : Event) : (s.emit e).params = s.params := by
  unfold State.emit; split <;> rfl
@[simp] theorem State.emit_fcb (s : State) (e : Event) : (s.emit e).fcb = s.fcb := by
  unfold State.emit; split <;> rfl
@[simp] theorem State.emit_keymap (s : State) (e : Event) : (s.emit e).keymap = s.keymap := by
  unfold State.emit; split <;> rfl
@[simp] theorem State.emit_lastTx (s : State) (e : Event) : (s.emit e).lastTx = s.lastTx := by
  unfold State.emit; split <;> rfl
@[simp] theorem State.emit_link (s : State) (e : Event) : (s.emit e).link = s.link := by
  unfold State.emit; split <;> rfl
@[simp] theorem State.emit_scanner (s : State) (e : Event) : (s.emit e).scanner = s.scanner := by
  unfold State.emit; split <;> rfl
@[simp] theorem State.emit_bcds (s : State) (e : Event) : (s.emit e).bcds = s.bcds := by
  unfold State.emit; split <;> rfl
@[simp] theorem State.emit_addrs (s : State) (e : Event) : (s.emit e).addrs = s.addrs := by
  unfold State.emit; split <;> rfl
@[simp] theorem State.emit_recs (s : State) (e : Event) : (s.emit e).recs = s.recs := by
  unfold State.emit; split <;> rfl
@[simp] theorem State.emit_vdss (s : State) (e : Event) : (s.emit e).vdss = s.vdss := by
  unfold State.emit; split <;> rfl
@[simp] theorem State.emit_msgs (s : State) (e : Event) : (s.emit e).msgs = s.msgs := by
  unfold State.emit; split <;> rfl
@[simp] theorem State.emit_tpIn (s : State) (e : Event) : (s.emit e).tpIn = s.tpIn := by
  unfold State.emit; split <;> rfl
@[simp] theorem State.emit_tpOut (s : State) (e : Event) : (s.emit e).tpOut = s.tpOut := by
  unfold State.emit; split <;> rfl
@[simp] theorem State.emit_evts (s : State) (e : Event) :
    (s.emit e).evts = if s.listener then s.evts ++ [e] else s.evts := by
  unfold State.emit; split <;> rfl
@[simp] theorem State.emit_listener (s : State) (e : Event) : (s.emit e).listener = s.listener := by
  unfold State.emit; split <;> rfl
@[simp] theorem State.emit_inp (s : State) (e : Event) : (s.emit e).inp = s.inp := by
  unfold State.emit; split <;> rfl
@[simp] theorem State.emit_resp (s : State) (e : Event) : (s.emit e).resp = s.resp := by
  unfold State.emit; split <;> rfl
@[simp] theorem State.emit_free (s : State) (e : Event) : (s.emit e).free = s.free := by
  unfold State.emit; split <;> rfl
@[simp] theorem State.scanMessage_kind (s : State) : s.scanMessage.kind = s.kind := by
  simp [State.scanMessage]
@[simp] theorem State.scanMessage_port (s : State) : s.scanMessage.port = s.port := by
  simp [State.scanMessage]
@[simp] theorem State.scanMessage_params (s : State) : s.scanMessage.params = s.params := by
  simp [State.scanMessage]
@[simp] theorem State.scanMessage_fcb (s : State) : s.scanMessage.fcb = s.fcb := by
  simp [State.scanMessage]
@[simp] theorem State.scanMessage_keymap (s : State) : s.scanMessage.keymap = s.keymap := by
  simp [State.scanMessage]
@[simp] theorem State.scanMessage_lastTx (s : State) : s.scanMessage.lastTx = s.lastTx := by
  simp [State.scanMessage]
@[simp] theorem State.scanMessage_link (s : State) : s.scanMessage.link = s.link := by
  simp [State.scanMessage]
@[simp] theorem State.scanMessage_scanner (s : State) : s.scanMessage.scanner = s.scanner := by
  simp [State.scanMessage]
@[simp] theorem State.scanMessage_bcds (s : State) : s.scanMessage.bcds = s.bcds := by
  simp [State.scanMessage]
@[simp] theorem State.scanMessage_addrs (s : State) : s.scanMessage.addrs = s.addrs := by
  simp [State.scanMessage]
@[simp] theorem State.scanMessage_recs (s : State) : s.scanMessage.recs = s.recs := by
  simp [State.scanMessage]
@[simp] theorem State.scanMessage_vdss (s : State) : s.scanMessage.vdss = s.vdss := by
  simp [State.scanMessage]
@[simp] theorem State.scanMessage_msgs (s : State) : s.scanMessage.msgs = s.msgs := by
  simp [State.scanMessage]
@[simp] theorem State.scanMessage_tpIn (s : State) : s.scanMessage.tpIn = s.tpIn := by
  simp [State.scanMessage]
@[simp] theorem State.scanMessage_tpOut (s : State) : s.scanMessage.tpOut = s.tpOut := by
  simp [State.scanMessage]
@[simp] theorem State.scanMessage_listener (s : State) : s.scanMessage.listener = s.listener := by
  simp [State.scanMessage]
@[simp] theorem State.scanMessage_inp (s : State) : s.scanMessage.inp = s.inp := by
  simp [State.scanMessage]
@[simp] theorem State.scanMessage_resp (s : State) : s.scanMessage.resp = s.resp := by
  simp [State.scanMessage]

end Sys2Proof.Machine
end

