-- ==== Sys2Proof/Laws/Ops.lean ====
section
/-! SUPPORT. How an operation ends, said once for each named way of ending it, and what an operand form can give. -/

namespace Sys2Proof.Machine

/-! ## Parts of an operation -/

/-- A part after a part has a value exactly if both have. -/
theorem Run.bind_ok {α β : Type} {r : Run α} {f : α → Run β} {b : β} :
    (r >>= f) = .ok b ↔ ∃ a, r = .ok a ∧ f a = .ok b := by
  cases r with
  | error e => exact ⟨fun h => (nomatch h), fun ⟨_, h, _⟩ => (nomatch h)⟩
  | ok a => exact ⟨fun h => ⟨a, rfl, h⟩, fun ⟨_, h, h'⟩ => by cases h; exact h'⟩

/-- A part after a part ends otherwise exactly if one of them does. -/
theorem Run.bind_error {α β : Type} {r : Run α} {f : α → Run β} {e : Ending} :
    (r >>= f) = .error e ↔ r = .error e ∨ ∃ a, r = .ok a ∧ f a = .error e := by
  cases r with
  | error e' => exact ⟨fun h => .inl (by cases h; rfl), fun h => by rcases h with h | ⟨_, h, _⟩ <;> cases h; rfl⟩
  | ok a => exact ⟨fun h => .inr ⟨a, rfl, h⟩, fun h => by rcases h with h | ⟨_, h, h'⟩ <;> cases h; exact h'⟩

/-- The same for decoders. -/
theorem Dec.bind_ok {α β : Type} {r : Dec α} {f : α → Dec β} {b : β} :
    (r >>= f) = .ok b ↔ ∃ a, r = .ok a ∧ f a = .ok b := by
  cases r with
  | error e => exact ⟨fun h => (nomatch h), fun ⟨_, h, _⟩ => (nomatch h)⟩
  | ok a => exact ⟨fun h => ⟨a, rfl, h⟩, fun ⟨_, h, h'⟩ => by cases h; exact h'⟩

theorem Dec.bind_error {α β : Type} {r : Dec α} {f : α → Dec β} {c : Cause} :
    (r >>= f) = .error c ↔ r = .error c ∨ ∃ a, r = .ok a ∧ f a = .error c := by
  cases r with
  | error e' => exact ⟨fun h => .inl (by cases h; rfl), fun h => by rcases h with h | ⟨_, h, _⟩ <;> cases h; rfl⟩
  | ok a => exact ⟨fun h => .inr ⟨a, rfl, h⟩, fun h => by rcases h with h | ⟨_, h, h'⟩ <;> cases h; exact h'⟩

/-- A decoder inside an operation raises its own cause and nothing else (R464). -/
theorem Run.ofDec_ok {α : Type} {d : Dec α} {a : α} : Run.ofDec d = .ok a ↔ d = .ok a := by
  cases d <;> simp [Run.ofDec]

theorem Run.ofDec_error {α : Type} {d : Dec α} {e : Ending} :
    Run.ofDec d = .error e ↔ ∃ c, d = .error c ∧ e = .raised c := by
  cases d with
  | error c => exact ⟨fun h => ⟨c, rfl, by cases h; rfl⟩, fun ⟨_, h, h'⟩ => by cases h; rw [h']; rfl⟩
  | ok a => exact ⟨fun h => (nomatch h), fun ⟨_, h, _⟩ => (nomatch h)⟩

/-! ## Endings -/

/-- An operation that goes on after a part gives a next state exactly if the part has a value and what follows gives it, or
the part raised and the exception is taken in the state the operation was in. -/
theorem proceed_next {α : Type} {r : Run α} {k : α → Out} {s t : State} :
    proceed r k s = .next t ↔ (∃ a, r = .ok a ∧ k a = .next t) ∨ ∃ c, r = .error (.raised c) ∧ t = s.raise c := by
  rcases r with (c | x | f) | a
  · exact ⟨fun h => .inr ⟨c, rfl, by cases h; rfl⟩,
      fun h => by rcases h with ⟨_, h, _⟩ | ⟨_, h, h'⟩ <;> cases h; rw [h']; rfl⟩
  · exact ⟨fun h => (nomatch h), fun h => by rcases h with ⟨_, h, _⟩ | ⟨_, h, _⟩ <;> cases h⟩
  · exact ⟨fun h => (nomatch h), fun h => by rcases h with ⟨_, h, _⟩ | ⟨_, h, _⟩ <;> cases h⟩
  · exact ⟨fun h => .inl ⟨a, rfl, h⟩, fun h => by rcases h with ⟨_, h, h'⟩ | ⟨_, h, _⟩ <;> cases h; exact h'⟩

/-- An operation that ends with its part. -/
theorem finish_next {α : Type} {r : Run α} {k : α → State} {s t : State} :
    finish r k s = .next t ↔ (∃ a, r = .ok a ∧ t = k a) ∨ ∃ c, r = .error (.raised c) ∧ t = s.raise c := by
  rw [finish, proceed_next]
  constructor <;> rintro (⟨a, h, h'⟩ | h)
  · exact .inl ⟨a, h, by cases h'; rfl⟩
  · exact .inr h
  · exact .inl ⟨a, h, by rw [h']⟩
  · exact .inr h

/-- An operation that only answers. -/
theorem conclude_next {r : Run Value} {s t : State} :
    conclude r s = .next t ↔ (∃ v, r = .ok v ∧ t = s.respond v) ∨ ∃ c, r = .error (.raised c) ∧ t = s.raise c :=
  finish_next

@[simp] theorem proceed_ok {α : Type} (a : α) (k : α → Out) (s : State) : proceed (.ok a) k s = k a := rfl
@[simp] theorem proceed_raised {α : Type} (c : Cause) (k : α → Out) (s : State) :
    proceed (.error (.raised c)) k s = .next (s.raise c) := rfl
@[simp] theorem proceed_refused {α : Type} (x : Refusal) (k : α → Out) (s : State) :
    proceed (.error (.refused x)) k s = .refused x := rfl
@[simp] theorem proceed_faulted {α : Type} (f : Fault) (k : α → Out) (s : State) :
    proceed (.error (.faulted f)) k s = .fault f := rfl
@[simp] theorem finish_ok {α : Type} (a : α) (k : α → State) (s : State) : finish (.ok a) k s = .next (k a) := rfl
@[simp] theorem finish_raised {α : Type} (c : Cause) (k : α → State) (s : State) :
    finish (.error (.raised c)) k s = .next (s.raise c) := rfl
@[simp] theorem finish_refused {α : Type} (x : Refusal) (k : α → State) (s : State) :
    finish (.error (.refused x)) k s = .refused x := rfl
@[simp] theorem finish_faulted {α : Type} (f : Fault) (k : α → State) (s : State) :
    finish (.error (.faulted f)) k s = .fault f := rfl
@[simp] theorem conclude_ok (v : Value) (s : State) : conclude (.ok v) s = .next (s.respond v) := rfl
@[simp] theorem conclude_raised (c : Cause) (s : State) : conclude (.error (.raised c)) s = .next (s.raise c) := rfl
@[simp] theorem conclude_refused (x : Refusal) (s : State) : conclude (.error (.refused x)) s = .refused x := rfl
@[simp] theorem conclude_faulted (f : Fault) (s : State) : conclude (.error (.faulted f)) s = .fault f := rfl

/-! ## Operand forms -/

/-- A reference has an object, or the access faults (log 16). -/
theorem objAt_ok {α : Type} {l : List α} {n : Nat} {a : α} : objAt l n = .ok a ↔ l[n]? = some a := by
  unfold objAt
  cases l[n]? with
  | none => exact ⟨fun h => (nomatch h), fun h => (nomatch h)⟩
  | some b => exact ⟨fun h => by cases h; rfl, fun h => by cases h; rfl⟩

theorem objAt_error {α : Type} {l : List α} {n : Nat} {e : Ending} :
    objAt l n = .error e ↔ l[n]? = none ∧ e = .faulted .noSuchObject := by
  unfold objAt
  cases l[n]? with
  | none => exact ⟨fun h => ⟨rfl, by cases h; rfl⟩, fun ⟨_, h⟩ => by rw [h]⟩
  | some b => exact ⟨fun h => (nomatch h), fun ⟨h, _⟩ => (nomatch h)⟩

theorem present_ok {α : Type} {o : Option α} {a : α} : present o = .ok a ↔ o = some a := by
  cases o with
  | none => exact ⟨fun h => (nomatch h), fun h => (nomatch h)⟩
  | some b => exact ⟨fun h => by cases h; rfl, fun h => by cases h; rfl⟩

theorem present_error {α : Type} {o : Option α} {e : Ending} :
    present o = .error e ↔ o = none ∧ e = .faulted .noSuchObject := by
  cases o with
  | none => exact ⟨fun h => ⟨rfl, by cases h; rfl⟩, fun ⟨_, h⟩ => by rw [h]; rfl⟩
  | some b => exact ⟨fun h => (nomatch h), fun ⟨h, _⟩ => (nomatch h)⟩

/-- The fields of a VDS may be read only when it is decoded (R31). -/
theorem decodedVds_ok {s : State} {n : Nat} {v : Vds} :
    decodedVds s n = .ok v ↔ s.vdss[n]? = some v ∧ v.phase = .decoded := by
  unfold decodedVds
  rw [Run.bind_ok]
  constructor
  · rintro ⟨w, hw, h⟩
    split at h
    · cases h; exact ⟨objAt_ok.mp hw, ‹_›⟩
    · cases h
  · rintro ⟨h, hp⟩
    exact ⟨v, objAt_ok.mpr h, by rw [if_pos hp]⟩

/-- The address a reference stands for, by its form. -/
theorem saAt_ok {s : State} {r : SaRef} {a : SecondaryAddress} :
    saAt s r = .ok a ↔
      match r with
      | .obj n => s.addrs[n]? = some a
      | .ofVds n => ∃ v, s.vdss[n]? = some v ∧ v.phase = .decoded ∧ v.secondaryAddress = some a
      | .ofMsg n => ∃ m, s.msgs[n]? = some m ∧ m.secondaryAddress.getD (unwrittenAddress n) = a
      | .found k => s.scanner.found[k]? = some a := by
  cases r with
  | obj n => exact objAt_ok
  | found k => exact objAt_ok
  | ofVds n =>
    rw [saAt, Run.bind_ok]
    exact ⟨fun ⟨v, h, h'⟩ => ⟨v, (decodedVds_ok.mp h).1, (decodedVds_ok.mp h).2, present_ok.mp h'⟩,
      fun ⟨v, h, hp, h'⟩ => ⟨v, decodedVds_ok.mpr ⟨h, hp⟩, present_ok.mpr h'⟩⟩
  | ofMsg n =>
    rw [saAt, Run.bind_ok]
    exact ⟨fun ⟨m, h, h'⟩ => ⟨m, objAt_ok.mp h, by cases h'; rfl⟩,
      fun ⟨m, h, h'⟩ => ⟨m, objAt_ok.mpr h, by rw [h']⟩⟩

/-- A free address has the shape of every other one. -/
theorem unwrittenAddress_whole (n : Nat) : (unwrittenAddress n).whole := ⟨rfl, rfl, rfl⟩

/-- An address a reference stands for is one the state holds, or the free address of a message whose header no operation has
decoded (93 U16). -/
theorem saAt_mem {s : State} {r : SaRef} {a : SecondaryAddress} (h : saAt s r = .ok a) :
    a ∈ s.addresses ∨ ∃ n, a = unwrittenAddress n := by
  rw [saAt_ok] at h
  unfold State.addresses
  cases r with
  | obj n => simp [List.mem_of_getElem? h]
  | found k => simp [List.mem_of_getElem? h]
  | ofVds n =>
    obtain ⟨v, hv, -, ha⟩ := h
    simp only [List.mem_append, List.mem_flatMap]
    exact .inl (.inl (.inr ⟨v, List.mem_of_getElem? hv, by simp [ha]⟩))
  | ofMsg n =>
    obtain ⟨m, hm, ha⟩ := h
    cases hx : m.secondaryAddress with
    | none => exact .inr ⟨n, by rw [← ha, hx]; rfl⟩
    | some x =>
      simp only [List.mem_append, List.mem_flatMap]
      exact .inl (.inr ⟨m, List.mem_of_getElem? hm, by simpa [hx] using ha.symm⟩)

/-- Where the state holds addresses of the right shape only, a reference gives no other. -/
theorem saAt_whole {s : State} {r : SaRef} {a : SecondaryAddress} (hs : ∀ x ∈ s.addresses, x.whole) (h : saAt s r = .ok a) :
    a.whole := by
  rcases saAt_mem h with h | ⟨n, rfl⟩
  · exact hs a h
  · exact unwrittenAddress_whole n

/-- A reference never raises: it gives an address or faults. -/
theorem saAt_error {s : State} {r : SaRef} {e : Ending} (h : saAt s r = .error e) : e = .faulted .noSuchObject := by
  cases r with
  | obj n => exact (objAt_error.mp h).2
  | found k => exact (objAt_error.mp h).2
  | ofVds n =>
    rw [saAt, Run.bind_error] at h
    rcases h with h | ⟨v, -, h⟩
    · rw [decodedVds, Run.bind_error] at h
      rcases h with h | ⟨w, -, h⟩
      · exact (objAt_error.mp h).2
      · split at h <;> cases h
        rfl
    · exact (present_error.mp h).2
  | ofMsg n =>
    rw [saAt, Run.bind_error] at h
    rcases h with h | ⟨m, -, h⟩
    · exact (objAt_error.mp h).2
    · cases h

/-- An optional operand: none, or an address by its form; the optional address of a decoded VDS is given as it is (R280). -/
theorem optSaAt_ok {s : State} {r : Option SaRef} {a : Option SecondaryAddress} :
    optSaAt s r = .ok a ↔
      match r with
      | none => a = none
      | some (.ofVds n) => ∃ v, s.vdss[n]? = some v ∧ v.phase = .decoded ∧ v.secondaryAddress = a
      | some r => ∃ x, saAt s r = .ok x ∧ a = some x := by
  have hr (r : SaRef) : (saAt s r >>= fun x => Run.ofDec (.ok (some x))) = .ok a ↔ ∃ x, saAt s r = .ok x ∧ a = some x := by
    rw [Run.bind_ok]
    exact ⟨fun ⟨x, h, h'⟩ => ⟨x, h, by cases h'; rfl⟩, fun ⟨x, h, h'⟩ => ⟨x, h, by rw [h']; rfl⟩⟩
  match r with
  | none => exact ⟨fun h => by cases h; rfl, fun h => by rw [h]; rfl⟩
  | some (.ofVds n) =>
    rw [optSaAt, Run.bind_ok]
    exact ⟨fun ⟨v, h, h'⟩ => ⟨v, (decodedVds_ok.mp h).1, (decodedVds_ok.mp h).2, by cases h'; rfl⟩,
      fun ⟨v, h, hp, h'⟩ => ⟨v, decodedVds_ok.mpr ⟨h, hp⟩, by rw [h']⟩⟩
  | some (.obj n) => exact hr (.obj n)
  | some (.ofMsg n) => exact hr (.ofMsg n)
  | some (.found k) => exact hr (.found k)

/-- The record a reference stands for, by its form. -/
theorem recAt_ok {s : State} {r : RecRef} {x : DataRecord} :
    recAt s r = .ok x ↔
      match r with
      | .obj n => s.recs[n]? = some x
      | .ofVds n k => ∃ v, s.vdss[n]? = some v ∧ v.phase = .decoded ∧ v.dataRecords[k]? = some x := by
  cases r with
  | obj n => exact objAt_ok
  | ofVds n k =>
    rw [recAt, Run.bind_ok]
    exact ⟨fun ⟨v, h, h'⟩ => ⟨v, (decodedVds_ok.mp h).1, (decodedVds_ok.mp h).2, objAt_ok.mp h'⟩,
      fun ⟨v, h, hp, h'⟩ => ⟨v, decodedVds_ok.mpr ⟨h, hp⟩, objAt_ok.mpr h'⟩⟩

/-! ## Conditions on the session -/

theorem needTransport_ok {s : State} : needTransport s = .ok () ↔ s.kind = .wired := by
  unfold needTransport; split <;> simp_all

/-- A link operation may start on an idle wired session and on no other (R27). -/
theorem needLink_ok {s : State} : needLink s = .ok () ↔ s.kind = .wired ∧ s.link = .idle := by
  unfold needLink needTransport
  by_cases hk : s.kind = .wired <;> by_cases hl : s.link = .idle <;> simp [hk, hl, bind, Except.bind]

theorem needLink_error {s : State} {e : Ending} (h : needLink s = .error e) :
    e = .faulted .noTransport ∧ s.kind = .wireless ∨ e = .refused .linkBusy ∧ s.kind = .wired ∧ s.link ≠ .idle := by
  unfold needLink needTransport at h
  cases hk : s.kind <;> by_cases hl : s.link = .idle <;> simp [hk, hl, bind, Except.bind] at h ⊢ <;> exact h.symm

theorem needScanner_ok {s : State} : needScanner s = .ok () ↔ s.kind = .wired := by
  unfold needScanner; split <;> simp_all

/-! ## Events -/

/-- An event is appended if a listener is attached, and nothing else changes (R480). -/
theorem State.emit_eq (e : Event) (s : State) :
    s.emit e = { s with evts := if s.listener then s.evts ++ [e] else s.evts } := by
  unfold State.emit
  by_cases h : s.listener = true
  · rw [if_pos h, if_pos h]
  · rw [if_neg h, if_neg h]

end Sys2Proof.Machine
end

