-- ==== Sys2Proof/Laws/Bytes.lean ====
section
/-! SUPPORT. What the readers of byte strings and the decoders made of them can give, said once each. -/

namespace Sys2Proof.Machine

/-! ## Reads at the cursor (R8, R65, R66) -/

theorem memRead_ok {n : Nat} {w bs r : Bytes} : memRead n w = .ok (bs, r) ↔ w = bs ++ r ∧ bs.length = n := by
  unfold memRead
  split
  · rename_i h
    exact ⟨fun h => (nomatch h), fun ⟨h1, h2⟩ => by subst h1; simp at h; omega⟩
  · rename_i h
    constructor
    · intro he
      cases he
      exact ⟨(List.take_append_drop n w).symm, by simp; omega⟩
    · rintro ⟨rfl, rfl⟩
      simp

theorem memRead_error {n : Nat} {w : Bytes} {c : Cause} :
    memRead n w = .error c ↔ w.length < n ∧ c = .truncatedBuffer := by
  unfold memRead
  split
  · rename_i h
    exact ⟨fun he => ⟨h, by cases he; rfl⟩, fun ⟨_, hc⟩ => by rw [hc]⟩
  · rename_i h
    exact ⟨fun he => (nomatch he), fun ⟨h1, _⟩ => absurd h1 h⟩

theorem memRead_append (bs r : Bytes) : memRead bs.length (bs ++ r) = .ok (bs, r) := memRead_ok.mpr ⟨rfl, rfl⟩

theorem memReadByte_ok {w r : Bytes} {b : Byte} : memReadByte w = .ok (b, r) ↔ w = b :: r := by
  cases w with
  | nil => exact ⟨fun h => (nomatch h), fun h => (nomatch h)⟩
  | cons x w => exact ⟨fun h => by cases h; rfl, fun h => by cases h; rfl⟩

theorem window_ok {buf w : Bytes} {off len : Nat} :
    window buf off len = .ok w ↔ off + len ≤ buf.length ∧ w = (buf.drop off).take len := by
  unfold window
  split
  · rename_i h
    exact ⟨fun he => (nomatch he), fun ⟨h1, _⟩ => by omega⟩
  · rename_i h
    exact ⟨fun he => ⟨by omega, by cases he; rfl⟩, fun ⟨_, hw⟩ => by rw [hw]⟩

/-- A triple that reaches past its buffer raises TruncatedBuffer (R65). -/
theorem window_error {buf : Bytes} {p n : Nat} {c : Cause} :
    window buf p n = .error c ↔ buf.length < p + n ∧ c = .truncatedBuffer := by
  unfold window
  split
  · exact ⟨fun h => by cases h; exact ⟨by omega, rfl⟩, fun h => by rw [h.2]⟩
  · exact ⟨fun h => (nomatch h), fun h => by omega⟩

/-- A window that stands in a buffer between two parts is read whole. -/
theorem window_between (front w back : Bytes) : window (front ++ w ++ back) front.length w.length = .ok w := by
  rw [window_ok]; simp

/-- A chain is the bytes up to and with the first one without bit 7; a chain that reaches the bound is truncated (R192). -/
theorem chain_ok {w c r : Bytes} : chain w = .ok (c, r) ↔ Chained c ∧ w = c ++ r := by
  induction w generalizing c with
  | nil =>
    refine ⟨fun h => (nomatch h), fun ⟨hc, h⟩ => ?_⟩
    rw [eq_comm, List.append_eq_nil_iff] at h
    rw [h.1] at hc
    exact hc.elim
  | cons b w ih =>
    rw [chain]
    by_cases hb : b.toNat < 128
    · rw [if_pos hb]
      constructor
      · intro h
        cases h
        exact ⟨hb, rfl⟩
      · rintro ⟨hc, h⟩
        cases c with
        | nil => exact hc.elim
        | cons x c =>
          cases h
          cases c with
          | nil => rfl
          | cons y c => exact absurd hc.1 (by omega)
    · rw [if_neg hb, Dec.bind_ok]
      constructor
      · rintro ⟨⟨c', r'⟩, h, h'⟩
        cases h'
        obtain ⟨hc, rfl⟩ := ih.mp h
        cases c' with
        | nil => exact hc.elim
        | cons y c' => exact ⟨⟨by omega, hc⟩, rfl⟩
      · rintro ⟨hc, h⟩
        cases c with
        | nil => exact hc.elim
        | cons x c =>
          cases h
          cases c with
          | nil => exact absurd hc hb
          | cons y c => exact ⟨(y :: c, r), ih.mpr ⟨hc.2, rfl⟩, rfl⟩

theorem chain_error {w : Bytes} {c : Cause} (h : chain w = .error c) : c = .truncatedBuffer := by
  induction w with
  | nil => cases h; rfl
  | cons b w ih =>
    rw [chain] at h
    split at h
    · cases h
    · rw [Dec.bind_error] at h
      rcases h with h | ⟨_, _, h⟩
      · exact ih h
      · cases h

/-! ## BCD (40_bcd.md R141) -/

theorem bcdDecode_bytes {b : Bytes} {x : Bcd} (h : bcdDecode b = .ok x) :
    x.bytes = b ∧ x.negative = bcdNegative b ∧ bcdDigits b = .ok x.digits := by
  rw [bcdDecode, Dec.bind_ok] at h
  obtain ⟨ds, hd, h⟩ := h
  cases h
  exact ⟨rfl, rfl, hd⟩

theorem bcdDigits_error {b : Bytes} {c : Cause} (h : bcdDigits b = .error c) : c = .bcdInvalidNibble := by
  induction b with
  | nil => cases h
  | cons x b ih =>
    cases b with
    | nil =>
      rw [bcdDigits] at h
      split at h
      · cases h; rfl
      · split at h
        · cases h
        · split at h <;> cases h
          rfl
    | cons y b =>
      rw [bcdDigits] at h
      split at h
      · cases h; rfl
      · rw [Dec.bind_error] at h
        rcases h with h | ⟨_, _, h⟩
        · exact ih h
        · cases h

theorem bcdDecode_error {b : Bytes} {c : Cause} (h : bcdDecode b = .error c) : c = .bcdInvalidNibble := by
  rw [bcdDecode, Dec.bind_error] at h
  rcases h with h | ⟨_, _, h⟩
  · exact bcdDigits_error h
  · cases h

/-- BCD.DEC of one byte or more reads exactly the packed decimals (R141). -/
theorem bcdDigits_packed (b : Bytes) (hb : b ≠ []) : (∃ ds, bcdDigits b = .ok ds) ↔ PackedDecimal b := by
  induction b with
  | nil => exact absurd rfl hb
  | cons x b ih =>
    cases b with
    | nil =>
      have h0 : byteAt [x] 0 = x := rfl
      simp only [PackedDecimal, List.length_singleton, Nat.lt_one_iff, forall_eq, h0, ne_eq, List.cons_ne_nil,
        not_false_eq_true, true_and]
      rw [bcdDigits]
      by_cases hl : lo x > 9
      · rw [if_pos hl]
        exact ⟨fun ⟨_, h⟩ => (nomatch h), fun h => absurd h.1 (by omega)⟩
      · rw [if_neg hl]
        by_cases hf : hi x = 15
        · rw [if_pos hf]
          exact ⟨fun _ => ⟨by omega, .inr hf⟩, fun _ => ⟨_, rfl⟩⟩
        · rw [if_neg hf]
          by_cases hh : hi x > 9
          · rw [if_pos hh]
            exact ⟨fun ⟨_, h⟩ => (nomatch h), fun h => by rcases h.2 with h | h <;> omega⟩
          · rw [if_neg hh]
            exact ⟨fun _ => ⟨by omega, .inl (by omega)⟩, fun _ => ⟨_, rfl⟩⟩
    | cons y b =>
      have ih := ih (by simp)
      have hP : PackedDecimal (x :: y :: b) ↔ (lo x ≤ 9 ∧ hi x ≤ 9) ∧ PackedDecimal (y :: b) := by
        constructor
        · intro h
          have h0 := h.2 0 (by simp)
          simp only [byteAt, List.getD_cons_zero, List.length_cons] at h0
          refine ⟨⟨h0.1, h0.2.resolve_right (by omega)⟩, by simp, fun k hk => ?_⟩
          have hs := h.2 (k + 1) (by simpa using hk)
          simp only [byteAt, List.getD_cons_succ, List.length_cons] at hs ⊢
          exact ⟨hs.1, hs.2.imp_right fun ⟨h, h'⟩ => ⟨by omega, h'⟩⟩
        · rintro ⟨⟨hl, hh⟩, h⟩
          refine ⟨by simp, fun k hk => ?_⟩
          cases k with
          | zero => exact ⟨hl, .inl hh⟩
          | succ k =>
            have hs := h.2 k (by simpa using hk)
            simp only [byteAt, List.getD_cons_succ, List.length_cons] at hs ⊢
            exact ⟨hs.1, hs.2.imp_right fun ⟨h, h'⟩ => ⟨by omega, h'⟩⟩
      rw [hP, ← ih, bcdDigits]
      by_cases hx : lo x > 9 ∨ hi x > 9
      · rw [if_pos hx]
        exact ⟨fun ⟨_, h⟩ => (nomatch h), fun h => by rcases hx with hx | hx <;> omega⟩
      · rw [if_neg hx]
        constructor
        · rintro ⟨ds, h⟩
          rw [Dec.bind_ok] at h
          obtain ⟨ds', h, -⟩ := h
          exact ⟨by omega, ds', h⟩
        · rintro ⟨-, ds, h⟩
          exact ⟨lo x :: hi x :: ds, Dec.bind_ok.mpr ⟨ds, h, rfl⟩⟩

/-- BCD.DEC of one byte or more: a packed decimal is read, anything else is BcdInvalidNibble (R141). -/
theorem bcdDecode_packed {b : Bytes} (hb : b ≠ []) :
    (PackedDecimal b → ∃ x, bcdDecode b = .ok x) ∧
    (¬PackedDecimal b → bcdDecode b = .error .bcdInvalidNibble) := by
  refine ⟨fun h => ?_, fun h => ?_⟩
  · obtain ⟨ds, hd⟩ := (bcdDigits_packed b hb).mpr h
    exact ⟨_, Dec.bind_ok.mpr ⟨ds, hd, rfl⟩⟩
  · cases hx : bcdDecode b with
    | ok x => exact absurd ((bcdDigits_packed b hb).mp ⟨_, (bcdDecode_bytes hx).2.2⟩) h
    | error c => rw [bcdDecode_error hx]

/-! ## Addresses (41_secondary_address.md R165, R166) -/

/-- SA.LH at the cursor takes 8 bytes, keeps them as they stand, and makes a whole address. -/
theorem readSaLh_ok {w r : Bytes} {a : SecondaryAddress} (h : readSaLh w = .ok (a, r)) : w = a.raw ++ r ∧ a.whole := by
  rw [readSaLh, Dec.bind_ok] at h
  obtain ⟨⟨raw, w'⟩, hr, h⟩ := h
  obtain ⟨rfl, hl⟩ := memRead_ok.mp hr
  rw [Dec.bind_ok] at h
  obtain ⟨a', ha, h⟩ := h
  rw [saFromLh, Dec.bind_ok] at ha
  obtain ⟨d, hd, ha⟩ := ha
  cases ha
  cases h
  refine ⟨rfl, rfl, ?_, hl⟩
  rw [(bcdDecode_bytes hd).1, List.length_take, hl]
  rfl

/-- SA.LL at the cursor, likewise. -/
theorem readSaLl_ok {w r : Bytes} {a : SecondaryAddress} (h : readSaLl w = .ok (a, r)) : w = a.raw ++ r ∧ a.whole := by
  rw [readSaLl, Dec.bind_ok] at h
  obtain ⟨⟨raw, w'⟩, hr, h⟩ := h
  obtain ⟨rfl, hl⟩ := memRead_ok.mp hr
  rw [Dec.bind_ok] at h
  obtain ⟨a', ha, h⟩ := h
  rw [saFromLl, Dec.bind_ok] at ha
  obtain ⟨d, hd, ha⟩ := ha
  cases ha
  cases h
  refine ⟨rfl, rfl, ?_, hl⟩
  rw [(bcdDecode_bytes hd).1, List.length_take, List.length_drop, hl]
  rfl

/-- SA.LH at the cursor, of 8 bytes and what follows: the address if its device id is a packed decimal, else
BcdInvalidNibble. -/
theorem readSaLh_append (raw w : Bytes) (hr : raw.length = 8) :
    (PackedDecimal (raw.take 4) → ∃ a, readSaLh (raw ++ w) = .ok (a, w) ∧ a.raw = raw) ∧
    (¬PackedDecimal (raw.take 4) → readSaLh (raw ++ w) = .error .bcdInvalidNibble) := by
  have hb : raw.take 4 ≠ [] := by intro h; simpa [hr] using congrArg List.length h
  have hm : memRead 8 (raw ++ w) = .ok (raw, w) := memRead_ok.mpr ⟨rfl, hr⟩
  refine ⟨fun h => ?_, fun h => ?_⟩
  · obtain ⟨x, hx⟩ := (bcdDecode_packed hb).1 h
    refine ⟨_, Dec.bind_ok.mpr ⟨_, hm, Dec.bind_ok.mpr ⟨_, Dec.bind_ok.mpr ⟨x, hx, rfl⟩, rfl⟩⟩, rfl⟩
  · exact Dec.bind_error.mpr (.inr ⟨_, hm, Dec.bind_error.mpr (.inl (Dec.bind_error.mpr
      (.inl ((bcdDecode_packed hb).2 h))))⟩)

/-- SA.LL at the cursor, likewise. -/
theorem readSaLl_append (raw w : Bytes) (hr : raw.length = 8) :
    (PackedDecimal ((raw.drop 2).take 4) → ∃ a, readSaLl (raw ++ w) = .ok (a, w) ∧ a.raw = raw) ∧
    (¬PackedDecimal ((raw.drop 2).take 4) → readSaLl (raw ++ w) = .error .bcdInvalidNibble) := by
  have hb : (raw.drop 2).take 4 ≠ [] := by intro h; simpa [hr] using congrArg List.length h
  have hm : memRead 8 (raw ++ w) = .ok (raw, w) := memRead_ok.mpr ⟨rfl, hr⟩
  refine ⟨fun h => ?_, fun h => ?_⟩
  · obtain ⟨x, hx⟩ := (bcdDecode_packed hb).1 h
    refine ⟨_, Dec.bind_ok.mpr ⟨_, hm, Dec.bind_ok.mpr ⟨_, Dec.bind_ok.mpr ⟨x, hx, rfl⟩, rfl⟩⟩, rfl⟩
  · exact Dec.bind_error.mpr (.inr ⟨_, hm, Dec.bind_error.mpr (.inl (Dec.bind_error.mpr
      (.inl ((bcdDecode_packed hb).2 h))))⟩)

/-! ## The free address (93 U16, log 35) -/

theorem lo_nibbles (h l : Nat) : lo (nibbles h l) = l % 16 := by
  simp only [lo, nibbles, BitVec.toNat_ofNat]; omega
theorem hi_nibbles (h l : Nat) : hi (nibbles h l) = h % 16 := by
  simp only [hi, nibbles, BitVec.toNat_ofNat]; omega

/-- Both nibbles are digits, but for a sentinel in the last high nibble. -/
theorem decimalByte_digits (b : Byte) : lo (decimalByte b) ≤ 9 ∧ hi (decimalByte b) ≤ 9 := by
  simp only [decimalByte, lo_nibbles, hi_nibbles]; omega
theorem lastDecimalByte_digits (b : Byte) :
    lo (lastDecimalByte b) ≤ 9 ∧ (hi (lastDecimalByte b) = 15 ∨ hi (lastDecimalByte b) ≤ 9) := by
  unfold lastDecimalByte
  split
  · rw [lo_nibbles, hi_nibbles]; exact ⟨by omega, .inl rfl⟩
  · exact ⟨(decimalByte_digits b).1, .inr (decimalByte_digits b).2⟩

/-- A free address is what SA.LL makes of its raw bytes. -/
theorem saFromLl_llAddressOf (x : BitVec 64) : saFromLl (llAddressOf x).raw = .ok (llAddressOf x) := by
  obtain ⟨l2, h2⟩ := decimalByte_digits (x.extractLsb' 16 8)
  obtain ⟨l3, h3⟩ := decimalByte_digits (x.extractLsb' 24 8)
  obtain ⟨l4, h4⟩ := decimalByte_digits (x.extractLsb' 32 8)
  obtain ⟨l5, h5⟩ := lastDecimalByte_digits (x.extractLsb' 40 8)
  refine Dec.bind_ok.mpr ⟨(llAddressOf x).deviceId, Dec.bind_ok.mpr ⟨(llAddressOf x).deviceId.digits, ?_, rfl⟩, rfl⟩
  rcases h5 with h5 | h5
  · simp [llAddressOf, bcdDigits, bcdNegative, l2, l3, l4, l5, h2, h3, h4, h5, Nat.not_lt.mpr, bind, Except.bind]
  · have n5 : hi (lastDecimalByte (x.extractLsb' 40 8)) ≠ 15 := by omega
    simp [llAddressOf, bcdDigits, bcdNegative, l2, l3, l4, l5, h2, h3, h4, h5, n5, Nat.not_lt.mpr, bind, Except.bind]

/-! ## Data fields (42_data_record.md R196) -/

theorem memRead_take {n : Nat} {d : Bytes} (h : n ≤ d.length) : memRead n d = .ok (d.take n, d.drop n) :=
  memRead_ok.mpr ⟨(List.take_append_drop n d).symm, by simp [h]⟩

theorem readLong_take {n : Nat} {d : Bytes} (h : n ≤ d.length) : ∃ v, readLong n d = .ok (v, d.drop n) :=
  ⟨_, Dec.bind_ok.mpr ⟨_, memRead_take h, rfl⟩⟩

theorem readBcd_take {n : Nat} {d : Bytes} (h : n ≤ d.length) (hp : PackedDecimal (d.take n)) :
    ∃ v, readBcd n d = .ok (v, d.drop n) := by
  obtain ⟨x, hx⟩ := (bcdDecode_packed hp.1).1 hp
  exact ⟨_, Dec.bind_ok.mpr ⟨_, memRead_take h, Dec.bind_ok.mpr ⟨x, hx, rfl⟩⟩⟩

/-- A whole data field is read, and takes exactly its bytes (R196). -/
theorem readData_field {code n : Nat} {hint : Hint} {d : Bytes} (h : DataField code hint d n) :
    ∃ v, readData code hint d = .ok (v, d.drop n) := by
  obtain ⟨hn, ⟨rfl, h⟩ | ⟨rfl, h⟩ | ⟨rfl, h, hp⟩ | ⟨rfl, rfl, hl, rfl⟩ | ⟨rfl, h⟩⟩ := h
  · simp only [List.mem_cons, Prod.mk.injEq, List.not_mem_nil, or_false] at h
    rcases h with ⟨rfl, rfl⟩ | ⟨rfl, rfl⟩ <;> exact ⟨.none, rfl⟩
  · simp only [List.mem_cons, Prod.mk.injEq, List.not_mem_nil, or_false] at h
    rcases h with ⟨rfl, rfl⟩ | ⟨rfl, rfl⟩ | ⟨rfl, rfl⟩ | ⟨rfl, rfl⟩ | ⟨rfl, rfl⟩ | ⟨rfl, rfl⟩ | ⟨rfl, rfl⟩ <;>
      first
        | exact readLong_take hn
        | exact ⟨_, Dec.bind_ok.mpr ⟨_, memRead_take hn, rfl⟩⟩
  · simp only [List.mem_cons, Prod.mk.injEq, List.not_mem_nil, or_false] at h
    rcases h with ⟨rfl, rfl⟩ | ⟨rfl, rfl⟩ | ⟨rfl, rfl⟩ | ⟨rfl, rfl⟩ | ⟨rfl, rfl⟩ <;> exact readBcd_take hn hp
  · cases d with
    | nil => simp at hn
    | cons l d =>
      have h0 : byteAt (l :: d) 0 = l := rfl
      rw [h0] at hl hn ⊢
      refine ⟨.string ((d.take l.toNat).reverse.map (fun c => charOf c.toNat)), ?_⟩
      change readString (l :: d) = _
      rw [readString, Dec.bind_ok]
      refine ⟨(l, d), rfl, ?_⟩
      simp only
      rw [if_neg (by omega), Dec.bind_ok]
      refine ⟨_, memRead_take (by simp at hn; omega), ?_⟩
      simp [Nat.add_comm 1]
  · simp only [List.mem_cons, Prod.mk.injEq, List.not_mem_nil, or_false] at h
    rcases h with ⟨rfl, rfl⟩ | ⟨rfl, rfl⟩ <;> exact ⟨_, Dec.bind_ok.mpr ⟨_, memRead_take hn, rfl⟩⟩

/-! ## AES.DECRYPT (43_aes_cbc.md R252) -/

/-- AES.DECRYPT deciphers the first blocks of its window (R252). -/
theorem decryptWindow_ok {key iv buf m : Bytes} {p avail n : Nat} :
    decryptWindow key iv buf p avail n = .ok m ↔ p + avail ≤ buf.length ∧ 16 * n ≤ avail ∧
      m = cbcDecrypt key n iv ((buf.drop p).take avail) := by
  rw [decryptWindow, Dec.bind_ok]
  constructor
  · rintro ⟨w, hw, h⟩
    obtain ⟨hl, rfl⟩ := window_ok.mp hw
    split at h
    · cases h
    · cases h; exact ⟨hl, by omega, rfl⟩
  · rintro ⟨hl, hn, rfl⟩
    exact ⟨_, window_ok.mpr ⟨hl, rfl⟩, if_neg (by omega)⟩

/-- Over a window BlockCountExceedsPayload is its one failure (R463); a triple that is none raises TruncatedBuffer (R65). -/
theorem decryptWindow_error {key iv buf : Bytes} {p avail n : Nat} {c : Cause} :
    decryptWindow key iv buf p avail n = .error c ↔
      buf.length < p + avail ∧ c = .truncatedBuffer ∨
        p + avail ≤ buf.length ∧ avail < 16 * n ∧ c = .blockCountExceedsPayload := by
  rw [decryptWindow, Dec.bind_error, window_error]
  refine or_congr_right ⟨?_, ?_⟩
  · rintro ⟨w, hw, h⟩
    split at h
    · cases h; exact ⟨(window_ok.mp hw).1, ‹_›, rfl⟩
    · cases h
  · rintro ⟨hl, hn, rfl⟩
    exact ⟨_, window_ok.mpr ⟨hl, rfl⟩, if_pos hn⟩

/-! ## VDS (44_vds.md R281) -/

@[simp] theorem Vds.withHeader_secondaryAddress (h : ShortHeader) (v : Vds) :
    (v.withHeader h).secondaryAddress = v.secondaryAddress := rfl
@[simp] theorem Vds.withRecords_secondaryAddress (l : RecordList) (v : Vds) :
    (v.withRecords l).secondaryAddress = v.secondaryAddress := rfl
@[simp] theorem Vds.fail_phase (v : Vds) : v.fail.phase = .failed := rfl

/-- What a decode keeps and what it makes: the operands are kept, the phase is Decoded, and an address is one of a long
header, as SA.LH made it. -/
theorem vdsBody_ok {p : Params} {m : KeyMap} {v t : Vds} (h : vdsBody p m v = .ok t) :
    t.phase = .decoded ∧ t.buf = v.buf ∧ t.off = v.off ∧ t.len = v.len ∧ t.llAddr = v.llAddr ∧ t.keys = v.keys ∧
      ∀ a, t.secondaryAddress = some a → a.whole := by
  rw [vdsBody, Dec.bind_ok] at h
  obtain ⟨w, -, h⟩ := h
  rw [Dec.bind_ok] at h
  obtain ⟨⟨ci, w⟩, -, h⟩ := h
  rw [Dec.bind_ok] at h
  obtain ⟨u, hu, h⟩ := h
  cases h
  simp only [true_and]
  unfold vdsByCi at hu
  split at hu
  · rw [vdsLong, Dec.bind_ok] at hu
    obtain ⟨⟨a, hh, w⟩, hl, hu⟩ := hu
    rw [readLongHeader, Dec.bind_ok] at hl
    obtain ⟨⟨a', w'⟩, ha, hl⟩ := hl
    rw [Dec.bind_ok] at hl
    obtain ⟨⟨h', w''⟩, -, hl⟩ := hl
    cases hl
    simp only at hu
    by_cases hr : hh.encryptionMode.isReserved = true
    · rw [if_pos hr] at hu
      cases hu
    · rw [if_neg hr, Dec.bind_ok] at hu
      obtain ⟨l, -, hu⟩ := hu
      cases hu
      exact ⟨rfl, rfl, rfl, rfl, rfl, fun b hb => by cases hb; exact (readSaLh_ok ha).2⟩
  · rw [vdsNone, Dec.bind_ok] at hu
    obtain ⟨l, -, hu⟩ := hu
    cases hu
    exact ⟨rfl, rfl, rfl, rfl, rfl, fun b hb => by cases hb⟩
  · rw [vdsShort, Dec.bind_ok] at hu
    obtain ⟨⟨hh, w⟩, -, hu⟩ := hu
    simp only at hu
    split at hu
    · rw [Dec.bind_ok] at hu
      obtain ⟨l, -, hu⟩ := hu
      cases hu
      exact ⟨rfl, rfl, rfl, rfl, rfl, fun b hb => by cases hb⟩
    · rw [Dec.bind_ok] at hu
      obtain ⟨⟨a, key⟩, -, hu⟩ := hu
      rw [Dec.bind_ok] at hu
      obtain ⟨m, -, hu⟩ := hu
      rw [Dec.bind_ok] at hu
      obtain ⟨l, -, hu⟩ := hu
      cases hu
      exact ⟨rfl, rfl, rfl, rfl, rfl, fun b hb => by cases hb⟩
    · cases hu
  · cases hu
  · cases hu

end Sys2Proof.Machine
end

