-- ==== Sys2Proof/Laws/Codec.lean ====
section
/-! SUPPORT. Every operand decoder undoes its encoder and leaves what follows (log 3). -/

namespace Sys2Proof

theorem DecodeResult.bind_ok {α β : Type} {r : Except DecodeError α} {a : α} (f : α → Except DecodeError β)
    (h : r = .ok a) : (r >>= f) = f a := by rw [h]; rfl

theorem getByte_cons (b : Byte) (r : Bytes) : getByte (b :: r) = .ok (b, r) := rfl

@[simp] theorem getByte_put (b : Byte) (r : Bytes) : getByte (putByte b ++ r) = .ok (b, r) := rfl

theorem getNat_putNatAux (f n : Nat) (r : Bytes) (h : n ≤ f) : getNat (putNatAux f n ++ r) = .ok (n, r) := by
  induction f generalizing n with
  | zero =>
    obtain rfl : n = 0 := by omega
    rfl
  | succ f ih =>
    rw [putNatAux]
    by_cases hn : n < 128
    · rw [if_pos hn]
      have hb : (BitVec.ofNat 8 n).toNat = n := by rw [BitVec.toNat_ofNat]; omega
      simp only [List.cons_append, List.nil_append, getNat]
      rw [if_pos (by omega), hb]
    · rw [if_neg hn]
      have hb : (BitVec.ofNat 8 (128 + n % 128)).toNat = 128 + n % 128 := by rw [BitVec.toNat_ofNat]; omega
      simp only [List.cons_append, getNat]
      rw [if_neg (by omega), DecodeResult.bind_ok _ (ih (n / 128) (by omega)), hb]
      simp only [Except.ok.injEq, Prod.mk.injEq, and_true]
      omega

@[simp] theorem getNat_put (n : Nat) (r : Bytes) : getNat (putNat n ++ r) = .ok (n, r) :=
  getNat_putNatAux n n r (Nat.le_refl n)

theorem getPos_put {n : Nat} (hn : 1 ≤ n) (r : Bytes) : getPos (putPos n ++ r) = .ok (n, r) := by
  rw [getPos, putPos, DecodeResult.bind_ok _ (getNat_put _ r)]
  simp only [Except.ok.injEq, Prod.mk.injEq, and_true]
  omega

@[simp] theorem getInt_put (v : Int) (r : Bytes) : getInt (putInt v ++ r) = .ok (v, r) := by
  rw [getInt, putInt, DecodeResult.bind_ok _ (getNat_put _ r)]
  simp only [Except.ok.injEq, Prod.mk.injEq, and_true]
  by_cases hv : 0 ≤ v
  · rw [if_pos hv, if_pos (by omega)]
    omega
  · rw [if_neg hv, if_neg (by omega)]
    omega

theorem getFixed_put {n : Nat} {bs : Bytes} (h : bs.length = n) (r : Bytes) :
    getFixed n (putFixed bs ++ r) = .ok (bs, r) := by
  subst h
  simp [getFixed, putFixed]

@[simp] theorem getBytes_put (bs r : Bytes) : getBytes (putBytes bs ++ r) = .ok (bs, r) := by
  rw [getBytes, putBytes, List.append_assoc, DecodeResult.bind_ok _ (getNat_put _ _)]
  exact getFixed_put rfl r

@[simp] theorem getChar_put (c : Char) (r : Bytes) : getChar (putNat c.toNat ++ r) = .ok (c, r) := by
  have hc : c.toNat.isValidChar := c.valid
  rw [getChar, DecodeResult.bind_ok _ (getNat_put _ r)]
  simp only
  rw [if_pos hc, Char.ofNat_toNat]

theorem getCharsN_put (cs : List Char) (r : Bytes) : getCharsN cs.length (putCharsN cs ++ r) = .ok (cs, r) := by
  induction cs with
  | nil => rfl
  | cons c cs ih =>
    rw [putCharsN, List.append_assoc, List.length_cons, getCharsN, DecodeResult.bind_ok _ (getChar_put c _)]
    simp only
    rw [DecodeResult.bind_ok _ ih]

@[simp] theorem getChars_put (cs : List Char) (r : Bytes) : getChars (putChars cs ++ r) = .ok (cs, r) := by
  rw [getChars, putChars, List.append_assoc, DecodeResult.bind_ok _ (getNat_put _ _)]
  exact getCharsN_put cs r

@[simp] theorem getBool_put (b : Bool) (r : Bytes) : getBool (putBool b ++ r) = .ok (b, r) := by cases b <;> rfl

theorem getBool_zero (r : Bytes) : getBool (0#8 :: r) = .ok (false, r) := rfl

theorem getBool_one (r : Bytes) : getBool (1#8 :: r) = .ok (true, r) := rfl

@[simp] theorem getKind_put (k : SessionKind) (r : Bytes) : getKind (putKind k ++ r) = .ok (k, r) := by cases k <;> rfl

@[simp] theorem getOrder_put (o : SaOrder) (r : Bytes) : getOrder (putOrder o ++ r) = .ok (o, r) := by cases o <;> rfl

@[simp] theorem getHint_put (h : Hint) (r : Bytes) : getHint (putHint h ++ r) = .ok (h, r) := by cases h <;> rfl

theorem getNibble_put {b : Byte} (h : b.toNat < 16) (r : Bytes) : getNibble (putByte b ++ r) = .ok (b, r) := by
  rw [getNibble, DecodeResult.bind_ok _ (getByte_put b r)]
  simp only
  rw [if_pos h]

@[simp] theorem getSaRef_put (a : SaRef) (r : Bytes) : getSaRef (putSaRef a ++ r) = .ok (a, r) := by
  cases a <;> simp only [putSaRef, List.cons_append, getSaRef] <;>
    (rw [DecodeResult.bind_ok _ (getByte_cons _ _)]; simp only; rw [DecodeResult.bind_ok _ (getNat_put _ _)]; rfl)

@[simp] theorem getOptSaRef_put (a : Option SaRef) (r : Bytes) : getOptSaRef (putOptSaRef a ++ r) = .ok (a, r) := by
  cases a with
  | none => rfl
  | some a =>
    rw [putOptSaRef, List.cons_append, getOptSaRef, DecodeResult.bind_ok _ (getBool_one _)]
    simp only [if_true]
    rw [DecodeResult.bind_ok _ (getSaRef_put a r)]

@[simp] theorem getRecRef_put (x : RecRef) (r : Bytes) : getRecRef (putRecRef x ++ r) = .ok (x, r) := by
  cases x with
  | obj n =>
    rw [putRecRef, List.cons_append, getRecRef, DecodeResult.bind_ok _ (getBool_zero _)]
    simp only
    rw [DecodeResult.bind_ok _ (getNat_put n r)]
    rfl
  | ofVds v k =>
    rw [putRecRef, List.cons_append, List.append_assoc, getRecRef, DecodeResult.bind_ok _ (getBool_one _)]
    simp only
    rw [DecodeResult.bind_ok _ (getNat_put v _)]
    simp only [if_true]
    rw [DecodeResult.bind_ok _ (getNat_put k r)]

@[simp] theorem getBcdRef_put (x : BcdRef) (r : Bytes) : getBcdRef (putBcdRef x ++ r) = .ok (x, r) := by
  cases x with
  | obj n =>
    rw [putBcdRef, List.cons_append, getBcdRef, DecodeResult.bind_ok _ (getByte_cons _ _)]
    simp only [if_true]
    rw [DecodeResult.bind_ok _ (getNat_put n r)]
  | deviceId a =>
    rw [putBcdRef, List.cons_append, getBcdRef, DecodeResult.bind_ok _ (getByte_cons _ _)]
    simp only [show ¬(1#8 = 0#8) by decide, if_true, if_false]
    rw [DecodeResult.bind_ok _ (getSaRef_put a r)]
  | dataValue y =>
    rw [putBcdRef, List.cons_append, getBcdRef, DecodeResult.bind_ok _ (getByte_cons _ _)]
    simp only [show ¬(2#8 = 0#8) by decide, show ¬(2#8 = 1#8) by decide, if_true, if_false]
    rw [DecodeResult.bind_ok _ (getRecRef_put y r)]

/-- The operand of KEY.GET, if raw bytes are 8. -/
theorem getAddrKey_put {k : AddrKey} (h : (Instr.keyGet k).wf = true) (r : Bytes) :
    getAddrKey (putAddrKey k ++ r) = .ok (k, r) := by
  cases k with
  | raw x =>
    have hx : x.length = 8 := by simpa [Instr.wf] using h
    rw [putAddrKey, List.cons_append, getAddrKey, DecodeResult.bind_ok _ (getBool_zero _)]
    simp only [Bool.false_eq_true, if_false]
    exact DecodeResult.bind_ok _ (getFixed_put hx r)
  | sa a =>
    rw [putAddrKey, List.cons_append, getAddrKey, DecodeResult.bind_ok _ (getBool_one _)]
    simp only [if_true]
    rw [DecodeResult.bind_ok _ (getSaRef_put a r)]

end Sys2Proof
end

