-- ==== Sys2Proof/Laws/KeyMap.lean ====
section
/-! SUPPORT. The key map: its laws (10_state.md R25, 47_keys_fcb.md R402 to R404) and its canonical form (log 8), which every
operation on it keeps. -/

namespace Sys2Proof.Machine

/-! ## The order of addresses (41_secondary_address.md R177) -/

theorem cmpBytes_self (a : Bytes) : cmpBytes a a = .eq := by
  induction a with
  | nil => rfl
  | cons x a ih => simp [cmpBytes, ih]

theorem cmpBytes_eq_iff (a b : Bytes) : cmpBytes a b = .eq ↔ a = b := by
  induction a generalizing b with
  | nil => cases b <;> simp [cmpBytes]
  | cons x a ih =>
    cases b with
    | nil => simp [cmpBytes]
    | cons y b =>
      simp only [cmpBytes]
      split
      · simp; intro h; subst h; omega
      · split
        · simp; intro h; subst h; omega
        · rename_i h1 h2
          have : x = y := BitVec.eq_of_toNat_eq (by omega)
          simp [this, ih]

theorem cmpBytes_swap (a b : Bytes) : cmpBytes b a = (cmpBytes a b).swap := by
  induction a generalizing b with
  | nil => cases b <;> rfl
  | cons x a ih =>
    cases b with
    | nil => rfl
    | cons y b =>
      simp only [cmpBytes]
      split
      · rw [if_neg (by omega)]; rfl
      · split <;> simp [ih]

theorem cmpBytes_trans {a b c : Bytes} (h : cmpBytes a b = .lt) (h' : cmpBytes b c = .lt) : cmpBytes a c = .lt := by
  induction a generalizing b c with
  | nil => cases b <;> cases c <;> simp_all [cmpBytes]
  | cons x a ih =>
    cases b with
    | nil => simp [cmpBytes] at h
    | cons y b =>
      cases c with
      | nil => simp [cmpBytes] at h'
      | cons z c =>
        simp only [cmpBytes] at h h' ⊢
        split at h
        · split at h'
          · rw [if_pos (by omega)]
          · split at h'
            · simp at h'
            · rw [if_pos (by omega)]
        · split at h
          · simp at h
          · split at h'
            · rw [if_pos (by omega)]
            · split at h'
              · simp at h'
              · rw [if_neg (by omega), if_neg (by omega)]
                exact ih h h'

theorem cmpBytes_gt_iff (a b : Bytes) : cmpBytes a b = .gt ↔ cmpBytes b a = .lt := by
  rw [cmpBytes_swap b a]
  cases cmpBytes b a <;> simp [Ordering.swap]

/-! ## Reading after writing -/

/-- KEY.ADD then the lookup of the same address: the key added. -/
theorem KeyMap.get_add_same (m : KeyMap) (raw key : Bytes) : KeyMap.get (KeyMap.add m raw key) raw = some key := by
  induction m with
  | nil => simp [KeyMap.add, KeyMap.get]
  | cons e m ih =>
    obtain ⟨r, k⟩ := e
    simp only [KeyMap.add]
    split
    · simp [KeyMap.get]
    · simp [KeyMap.get]
    · rename_i h
      have : r ≠ raw := by rintro rfl; simp [cmpBytes_self] at h
      simp [KeyMap.get, this, ih]

/-- KEY.ADD leaves every other address alone. -/
theorem KeyMap.get_add_other (m : KeyMap) (raw raw' key : Bytes) (h : raw' ≠ raw) :
    KeyMap.get (KeyMap.add m raw key) raw' = KeyMap.get m raw' := by
  induction m with
  | nil => simp [KeyMap.add, KeyMap.get, h.symm]
  | cons e m ih =>
    obtain ⟨r, k⟩ := e
    simp only [KeyMap.add]
    split
    · simp [KeyMap.get, h.symm]
    · rename_i hc
      have : raw = r := (cmpBytes_eq_iff _ _).1 hc
      subst this
      simp [KeyMap.get, h.symm]
    · simp [KeyMap.get, ih]

/-- KEY.DEL leaves every other address alone. -/
theorem KeyMap.get_del_other (m : KeyMap) (raw raw' : Bytes) (h : raw' ≠ raw) :
    KeyMap.get (KeyMap.del m raw) raw' = KeyMap.get m raw' := by
  induction m with
  | nil => rfl
  | cons e m ih =>
    obtain ⟨r, k⟩ := e
    simp only [KeyMap.del]
    split
    · rename_i hr
      subst hr
      simp [KeyMap.get, h.symm]
    · simp [KeyMap.get, ih]

/-! ## The canonical form -/

theorem KeyMap.risesFrom_trans {a b : Bytes} {m : KeyMap} (h : cmpBytes a b = .lt) (hm : KeyMap.risesFrom b m = true) :
    KeyMap.risesFrom a m = true := by
  cases m with
  | nil => rfl
  | cons e m =>
    obtain ⟨r, k⟩ := e
    simp only [KeyMap.risesFrom, Bool.and_eq_true, beq_iff_eq] at hm ⊢
    exact ⟨cmpBytes_trans h hm.1, hm.2⟩

/-- An address below all of a rising map is not in it. -/
theorem KeyMap.get_of_risesFrom {raw : Bytes} {m : KeyMap} (h : KeyMap.risesFrom raw m = true) :
    KeyMap.get m raw = none := by
  induction m with
  | nil => rfl
  | cons e m ih =>
    obtain ⟨r, k⟩ := e
    simp only [KeyMap.risesFrom, Bool.and_eq_true, beq_iff_eq] at h
    have hne : r ≠ raw := by rintro rfl; simp [cmpBytes_self] at h
    simp [KeyMap.get, hne, ih (KeyMap.risesFrom_trans h.1 h.2)]

theorem KeyMap.risesFrom_add {x : Bytes} {m : KeyMap} {raw key : Bytes} (h : KeyMap.risesFrom x m = true)
    (hx : cmpBytes x raw = .lt) : KeyMap.risesFrom x (KeyMap.add m raw key) = true := by
  induction m generalizing x with
  | nil => simp [KeyMap.add, KeyMap.risesFrom, hx]
  | cons e m ih =>
    obtain ⟨r, k⟩ := e
    simp only [KeyMap.risesFrom, Bool.and_eq_true, beq_iff_eq] at h
    simp only [KeyMap.add]
    split
    · rename_i hc
      simp [KeyMap.risesFrom, hx, hc, h.2]
    · rename_i hc
      obtain rfl := (cmpBytes_eq_iff _ _).1 hc
      simp [KeyMap.risesFrom, hx, h.2]
    · rename_i hc
      simp [KeyMap.risesFrom, h.1, ih h.2 ((cmpBytes_gt_iff _ _).1 hc)]

theorem KeyMap.risesFrom_del {x : Bytes} {m : KeyMap} {raw : Bytes} (h : KeyMap.risesFrom x m = true) :
    KeyMap.risesFrom x (KeyMap.del m raw) = true := by
  induction m generalizing x with
  | nil => rfl
  | cons e m ih =>
    obtain ⟨r, k⟩ := e
    simp only [KeyMap.risesFrom, Bool.and_eq_true, beq_iff_eq] at h
    simp only [KeyMap.del]
    split
    · exact KeyMap.risesFrom_trans h.1 h.2
    · simp [KeyMap.risesFrom, h.1, ih h.2]

theorem KeyMap.all_add {m : KeyMap} {raw key : Bytes} {p : Bytes × Bytes → Bool} (h : m.all p = true)
    (hk : p (raw, key) = true) : (KeyMap.add m raw key).all p = true := by
  induction m with
  | nil => simp [KeyMap.add, hk]
  | cons e m ih =>
    obtain ⟨r, k⟩ := e
    simp only [List.all_cons, Bool.and_eq_true] at h
    simp only [KeyMap.add]
    split <;> simp [hk, h.1, h.2, ih h.2]

theorem KeyMap.all_del {m : KeyMap} {raw : Bytes} {p : Bytes × Bytes → Bool} (h : m.all p = true) :
    (KeyMap.del m raw).all p = true := by
  induction m with
  | nil => rfl
  | cons e m ih =>
    obtain ⟨r, k⟩ := e
    simp only [List.all_cons, Bool.and_eq_true] at h
    simp only [KeyMap.del]
    split <;> simp [h.1, h.2, ih h.2]

/-- KEY.ADD of a 16-byte key keeps the canonical form. -/
theorem KeyMap.wf_add {m : KeyMap} {raw key : Bytes} (h : KeyMap.wf m = true) (hk : key.length = Config.keyLen) :
    KeyMap.wf (KeyMap.add m raw key) = true := by
  simp only [KeyMap.wf, Bool.and_eq_true] at h ⊢
  refine ⟨?_, KeyMap.all_add h.2 (by simpa using hk)⟩
  cases m with
  | nil => simp [KeyMap.add, KeyMap.risesFrom]
  | cons e m =>
    obtain ⟨r, k⟩ := e
    have h1 := h.1
    simp only [KeyMap.add]
    cases hc : cmpBytes raw r with
    | lt => simpa [KeyMap.risesFrom, hc] using h1
    | eq =>
      obtain rfl := (cmpBytes_eq_iff _ _).1 hc
      simpa using h1
    | gt => exact KeyMap.risesFrom_add h1 ((cmpBytes_gt_iff _ _).1 hc)

/-- KEY.DEL keeps the canonical form. -/
theorem KeyMap.wf_del {m : KeyMap} {raw : Bytes} (h : KeyMap.wf m = true) : KeyMap.wf (KeyMap.del m raw) = true := by
  simp only [KeyMap.wf, Bool.and_eq_true] at h ⊢
  refine ⟨?_, KeyMap.all_del h.2⟩
  cases m with
  | nil => rfl
  | cons e m =>
    obtain ⟨r, k⟩ := e
    have h1 := h.1
    by_cases hr : r = raw
    · simp only [KeyMap.del, if_pos hr]
      cases m with
      | nil => rfl
      | cons e' m =>
        obtain ⟨r', k'⟩ := e'
        simp only [KeyMap.risesFrom, Bool.and_eq_true] at h1
        exact h1.2
    · simp only [KeyMap.del, if_neg hr]
      exact KeyMap.risesFrom_del h1

/-- In a canonical map KEY.DEL removes the key: the address has none afterwards. -/
theorem KeyMap.get_del_same {m : KeyMap} {raw : Bytes} (h : KeyMap.wf m = true) :
    KeyMap.get (KeyMap.del m raw) raw = none := by
  simp only [KeyMap.wf, Bool.and_eq_true] at h
  have key : ∀ (m : KeyMap) (x : Bytes), KeyMap.risesFrom x m = true → KeyMap.get (KeyMap.del m raw) raw = none := by
    intro m
    induction m with
    | nil => intros; rfl
    | cons e m ih =>
      obtain ⟨r, k⟩ := e
      intro x hx
      simp only [KeyMap.risesFrom, Bool.and_eq_true, beq_iff_eq] at hx
      simp only [KeyMap.del]
      split
      · rename_i hr
        subst hr
        exact KeyMap.get_of_risesFrom hx.2
      · rename_i hr
        simp [KeyMap.get, hr, ih r hx.2]
  cases m with
  | nil => rfl
  | cons e m =>
    obtain ⟨r, k⟩ := e
    have h1 := h.1
    simp only [KeyMap.del]
    split
    · rename_i hr
      subst hr
      exact KeyMap.get_of_risesFrom h1
    · rename_i hr
      simp [KeyMap.get, hr, key m r h1]

/-- The key map after reset is canonical. -/
theorem reset_keymap_wf : KeyMap.wf State.reset.keymap = true := by decide

end Sys2Proof.Machine
end

