-- ==== Sys2Proof/Laws/PerInstr.lean ====
section
/-! SUPPORT. Facts stated for every instruction, one lemma per constructor. -/

namespace Sys2Proof.Laws

/-- The codes of the requests, in the order of the constructors of `Instr`; REQ-UD2 has two. -/
def kindOfCode (c : Byte) : Option Nat :=
  match c.toNat with
  | 0x00 => some 0
  | 0x01 => some 1
  | 0x02 => some 2
  | 0x03 => some 3
  | 0x04 => some 4
  | 0x10 => some 5
  | 0x11 => some 6
  | 0x12 => some 7
  | 0x13 => some 8
  | 0x14 => some 9
  | 0x18 => some 10
  | 0x19 => some 11
  | 0x1A => some 12
  | 0x1B => some 13
  | 0x1C => some 14
  | 0x1D => some 15
  | 0x1E => some 16
  | 0x1F => some 17
  | 0x20 => some 18
  | 0x21 => some 19
  | 0x28 => some 20
  | 0x29 => some 21
  | 0x30 => some 22
  | 0x31 => some 23
  | 0x40 => some 24
  | 0x41 => some 25
  | 0x42 => some 26
  | 0x43 => some 27
  | 0x44 => some 28
  | 0x45 => some 29
  | 0x46 => some 30
  | 0x47 => some 31
  | 0x50 => some 32
  | 0x51 => some 33
  | 0x52 => some 34
  | 0x53 => some 35
  | 0x54 => some 36
  | 0x55 => some 37
  | 0x56 => some 38
  | 0x57 => some 39
  | 0x60 => some 40
  | 0x61 => some 41
  | 0x62 => some 42
  | 0x70 => some 43
  | 0x71 => some 44
  | 0x72 => some 45
  | 0x73 => some 46
  | 0x74 => some 47
  | 0x75 => some 48
  | 0x76 => some 49
  | 0x77 => some 50
  | 0xE5 => some 51
  | 0x80 => some 52
  | 0x81 => some 53
  | 0x82 => some 54
  | 0x83 => some 55
  | 0x84 => some 56
  | 0x85 => some 57
  | 0x86 => some 58
  | 0x87 => some 59
  | 0x88 => some 60
  | 0x89 => some 61
  | 0x8A => some 62
  | 0x8B => some 63
  | 0x8C => some 64
  | 0x8D => some 65
  | 0x8E => some 66
  | 0x8F => some 67
  | 0x90 => some 68
  | 0x91 => some 69
  | 0x5B => some 70
  | 0x7B => some 70
  | 0x92 => some 71
  | 0x93 => some 72
  | 0x94 => some 73
  | _ => none

/-- The bytes of a request begin with its code, and that code belongs to no other kind of request: reading the code alone
tells the constructor (30_encoding.md R130; log 3 for the format rows). -/
def LeadsWithItsCode.Statement (i : Instr) : Prop :=
  ∃ operands, encode i = codeOf i :: operands ∧ kindOfCode (codeOf i) = some i.ctorIdx


theorem LeadsWithItsCode.sesOpen (kind : SessionKind) (port : Nat) : LeadsWithItsCode.Statement (.sesOpen kind port) :=
  ⟨_, rfl, rfl⟩

theorem LeadsWithItsCode.keyAdd (sa : SaRef) (key : Bytes) : LeadsWithItsCode.Statement (.keyAdd sa key) :=
  ⟨_, rfl, rfl⟩

theorem LeadsWithItsCode.keyDel (sa : SaRef) : LeadsWithItsCode.Statement (.keyDel sa) :=
  ⟨_, rfl, rfl⟩

theorem LeadsWithItsCode.keyGet (k : AddrKey) : LeadsWithItsCode.Statement (.keyGet k) :=
  ⟨_, rfl, rfl⟩

theorem LeadsWithItsCode.fcbGet (a : Byte) : LeadsWithItsCode.Statement (.fcbGet a) :=
  ⟨_, rfl, rfl⟩

theorem LeadsWithItsCode.bcdDec (b : Bytes) : LeadsWithItsCode.Statement (.bcdDec b) :=
  ⟨_, rfl, rfl⟩

theorem LeadsWithItsCode.bcdStr (x : BcdRef) : LeadsWithItsCode.Statement (.bcdStr x) :=
  ⟨_, rfl, rfl⟩

theorem LeadsWithItsCode.bcdInt (x : BcdRef) : LeadsWithItsCode.Statement (.bcdInt x) :=
  ⟨_, rfl, rfl⟩

theorem LeadsWithItsCode.bcdLong (x : BcdRef) : LeadsWithItsCode.Statement (.bcdLong x) :=
  ⟨_, rfl, rfl⟩

theorem LeadsWithItsCode.bcdEnc (v : Int) (n : Nat) : LeadsWithItsCode.Statement (.bcdEnc v n) :=
  ⟨_, rfl, rfl⟩

theorem LeadsWithItsCode.manDec (m0 : Byte) (m1 : Byte) : LeadsWithItsCode.Statement (.manDec m0 m1) :=
  ⟨_, rfl, rfl⟩

theorem LeadsWithItsCode.manEnc (str : List Char) : LeadsWithItsCode.Statement (.manEnc str) :=
  ⟨_, rfl, rfl⟩

theorem LeadsWithItsCode.saLh (buf : Bytes) (p : Nat) : LeadsWithItsCode.Statement (.saLh buf p) :=
  ⟨_, rfl, rfl⟩

theorem LeadsWithItsCode.saLl (buf : Bytes) (p : Nat) : LeadsWithItsCode.Statement (.saLl buf p) :=
  ⟨_, rfl, rfl⟩

theorem LeadsWithItsCode.saRaw (x : SaRef) : LeadsWithItsCode.Statement (.saRaw x) :=
  ⟨_, rfl, rfl⟩

theorem LeadsWithItsCode.saEq (x : SaRef) (y : SaRef) : LeadsWithItsCode.Statement (.saEq x y) :=
  ⟨_, rfl, rfl⟩

theorem LeadsWithItsCode.saCmp (x : SaRef) (y : SaRef) : LeadsWithItsCode.Statement (.saCmp x y) :=
  ⟨_, rfl, rfl⟩

theorem LeadsWithItsCode.saBuild (man : List Char) (deviceId : Int) (version : Byte) (deviceType : Byte) (order : SaOrder) : LeadsWithItsCode.Statement (.saBuild man deviceId version deviceType order) :=
  ⟨_, rfl, rfl⟩

theorem LeadsWithItsCode.drDec (buf : Bytes) (p : Nat) (remaining : Nat) : LeadsWithItsCode.Statement (.drDec buf p remaining) :=
  ⟨_, rfl, rfl⟩

theorem LeadsWithItsCode.drScale (x : RecRef) : LeadsWithItsCode.Statement (.drScale x) :=
  ⟨_, rfl, rfl⟩

theorem LeadsWithItsCode.aesDecrypt (key : Bytes) (iv : Bytes) (buf : Bytes) (p : Nat) (avail : Nat) (blockCount : Nat) : LeadsWithItsCode.Statement (.aesDecrypt key iv buf p avail blockCount) :=
  ⟨_, rfl, rfl⟩

theorem LeadsWithItsCode.aesEncrypt (key : Bytes) (iv : Bytes) (m : Bytes) : LeadsWithItsCode.Statement (.aesEncrypt key iv m) :=
  ⟨_, rfl, rfl⟩

theorem LeadsWithItsCode.vdsNew (buf : Bytes) (off : Nat) (len : Nat) (llAddr : Option SaRef) (keys : Bool) : LeadsWithItsCode.Statement (.vdsNew buf off len llAddr keys) :=
  ⟨_, rfl, rfl⟩

theorem LeadsWithItsCode.vdsDec (v : Nat) : LeadsWithItsCode.Statement (.vdsDec v) :=
  ⟨_, rfl, rfl⟩

theorem LeadsWithItsCode.encShort (c : Byte) (a : Byte) : LeadsWithItsCode.Statement (.encShort c a) :=
  ⟨_, rfl, rfl⟩

theorem LeadsWithItsCode.encLong (c : Byte) (a : Byte) (ci : Byte) (data : Bytes) : LeadsWithItsCode.Statement (.encLong c a ci data) :=
  ⟨_, rfl, rfl⟩

theorem LeadsWithItsCode.chkSum (bs : Bytes) : LeadsWithItsCode.Statement (.chkSum bs) :=
  ⟨_, rfl, rfl⟩

theorem LeadsWithItsCode.chkVerify (f : Bytes) : LeadsWithItsCode.Statement (.chkVerify f) :=
  ⟨_, rfl, rfl⟩

theorem LeadsWithItsCode.decFrame (buf : Bytes) : LeadsWithItsCode.Statement (.decFrame buf) :=
  ⟨_, rfl, rfl⟩

theorem LeadsWithItsCode.decShort (buf : Bytes) : LeadsWithItsCode.Statement (.decShort buf) :=
  ⟨_, rfl, rfl⟩

theorem LeadsWithItsCode.txFrame (f : Bytes) : LeadsWithItsCode.Statement (.txFrame f) :=
  ⟨_, rfl, rfl⟩

theorem LeadsWithItsCode.rxFrame (t : Nat) : LeadsWithItsCode.Statement (.rxFrame t) :=
  ⟨_, rfl, rfl⟩

theorem LeadsWithItsCode.lnkRead (a : Byte) (t : Nat) : LeadsWithItsCode.Statement (.lnkRead a t) :=
  ⟨_, rfl, rfl⟩

theorem LeadsWithItsCode.lnkWrite (a : Byte) (payload : Bytes) (t : Nat) : LeadsWithItsCode.Statement (.lnkWrite a payload t) :=
  ⟨_, rfl, rfl⟩

theorem LeadsWithItsCode.lnkReset (a : Byte) (t : Nat) : LeadsWithItsCode.Statement (.lnkReset a t) :=
  ⟨_, rfl, rfl⟩

theorem LeadsWithItsCode.lnkSelect (sa : SaRef) (t : Nat) : LeadsWithItsCode.Statement (.lnkSelect sa t) :=
  ⟨_, rfl, rfl⟩

theorem LeadsWithItsCode.lnkDeselect (sa : SaRef) (t : Nat) : LeadsWithItsCode.Statement (.lnkDeselect sa t) :=
  ⟨_, rfl, rfl⟩

theorem LeadsWithItsCode.lnkSelrd (a : Byte) (payload : Bytes) (t : Nat) : LeadsWithItsCode.Statement (.lnkSelrd a payload t) :=
  ⟨_, rfl, rfl⟩

theorem LeadsWithItsCode.lnkRstrd (a : Byte) (t : Nat) : LeadsWithItsCode.Statement (.lnkRstrd a t) :=
  ⟨_, rfl, rfl⟩

theorem LeadsWithItsCode.lnkScansel (wild : Bytes) (t : Nat) : LeadsWithItsCode.Statement (.lnkScansel wild t) :=
  ⟨_, rfl, rfl⟩

theorem LeadsWithItsCode.wlNew (buf : Bytes) (rssi : Bytes) : LeadsWithItsCode.Statement (.wlNew buf rssi) :=
  ⟨_, rfl, rfl⟩

theorem LeadsWithItsCode.wlDec (m : Nat) : LeadsWithItsCode.Statement (.wlDec m) :=
  ⟨_, rfl, rfl⟩

theorem LeadsWithItsCode.wlDeep (m : Nat) : LeadsWithItsCode.Statement (.wlDeep m) :=
  ⟨_, rfl, rfl⟩

theorem LeadsWithItsCode.scanInit (mask : List Char) : LeadsWithItsCode.Statement (.scanInit mask) :=
  ⟨_, rfl, rfl⟩

theorem LeadsWithItsCode.scanStep (t : Nat) : LeadsWithItsCode.Statement (.scanStep t) :=
  ⟨_, rfl, rfl⟩

theorem LeadsWithItsCode.scanAdv  : LeadsWithItsCode.Statement (.scanAdv) :=
  ⟨_, rfl, rfl⟩

theorem LeadsWithItsCode.scanNarrow  : LeadsWithItsCode.Statement (.scanNarrow) :=
  ⟨_, rfl, rfl⟩

theorem LeadsWithItsCode.scanRun (mask : List Char) (t : Nat) : LeadsWithItsCode.Statement (.scanRun mask t) :=
  ⟨_, rfl, rfl⟩

theorem LeadsWithItsCode.scanAbort  : LeadsWithItsCode.Statement (.scanAbort) :=
  ⟨_, rfl, rfl⟩

theorem LeadsWithItsCode.scanPack (value : Bytes) : LeadsWithItsCode.Statement (.scanPack value) :=
  ⟨_, rfl, rfl⟩

theorem LeadsWithItsCode.maskFlip (m : List Char) : LeadsWithItsCode.Statement (.maskFlip m) :=
  ⟨_, rfl, rfl⟩

theorem LeadsWithItsCode.fAck  : LeadsWithItsCode.Statement (.fAck) :=
  ⟨_, rfl, rfl⟩

theorem LeadsWithItsCode.fShort (buf : Bytes) : LeadsWithItsCode.Statement (.fShort buf) :=
  ⟨_, rfl, rfl⟩

theorem LeadsWithItsCode.fLong (buf : Bytes) : LeadsWithItsCode.Statement (.fLong buf) :=
  ⟨_, rfl, rfl⟩

theorem LeadsWithItsCode.fWl (buf : Bytes) : LeadsWithItsCode.Statement (.fWl buf) :=
  ⟨_, rfl, rfl⟩

theorem LeadsWithItsCode.fSaLh (buf : Bytes) : LeadsWithItsCode.Statement (.fSaLh buf) :=
  ⟨_, rfl, rfl⟩

theorem LeadsWithItsCode.fSaLl (buf : Bytes) : LeadsWithItsCode.Statement (.fSaLl buf) :=
  ⟨_, rfl, rfl⟩

theorem LeadsWithItsCode.fMan (m0 : Byte) (m1 : Byte) : LeadsWithItsCode.Statement (.fMan m0 m1) :=
  ⟨_, rfl, rfl⟩

theorem LeadsWithItsCode.fSh (buf : Bytes) : LeadsWithItsCode.Statement (.fSh buf) :=
  ⟨_, rfl, rfl⟩

theorem LeadsWithItsCode.fLh (buf : Bytes) : LeadsWithItsCode.Statement (.fLh buf) :=
  ⟨_, rfl, rfl⟩

theorem LeadsWithItsCode.fDib (buf : Bytes) : LeadsWithItsCode.Statement (.fDib buf) :=
  ⟨_, rfl, rfl⟩

theorem LeadsWithItsCode.fVib (buf : Bytes) : LeadsWithItsCode.Statement (.fVib buf) :=
  ⟨_, rfl, rfl⟩

theorem LeadsWithItsCode.fData (code : Byte) (hint : Hint) (buf : Bytes) : LeadsWithItsCode.Statement (.fData code hint buf) :=
  ⟨_, rfl, rfl⟩

theorem LeadsWithItsCode.lvar (buf : Bytes) : LeadsWithItsCode.Statement (.lvar buf) :=
  ⟨_, rfl, rfl⟩

theorem LeadsWithItsCode.special (b : Byte) : LeadsWithItsCode.Statement (.special b) :=
  ⟨_, rfl, rfl⟩

theorem LeadsWithItsCode.fBcd (b : Bytes) : LeadsWithItsCode.Statement (.fBcd b) :=
  ⟨_, rfl, rfl⟩

theorem LeadsWithItsCode.fIv (raw : Bytes) (accessNumber : Byte) : LeadsWithItsCode.Statement (.fIv raw accessNumber) :=
  ⟨_, rfl, rfl⟩

theorem LeadsWithItsCode.fWild (value : Bytes) : LeadsWithItsCode.Statement (.fWild value) :=
  ⟨_, rfl, rfl⟩

theorem LeadsWithItsCode.cField (c : Byte) : LeadsWithItsCode.Statement (.cField c) :=
  ⟨_, rfl, rfl⟩

theorem LeadsWithItsCode.rspUdTest (c : Byte) : LeadsWithItsCode.Statement (.rspUdTest c) :=
  ⟨_, rfl, rfl⟩

theorem LeadsWithItsCode.reqUd2 (f : Bool) : LeadsWithItsCode.Statement (.reqUd2 f) :=
  ⟨_, rfl, by cases f <;> rfl⟩

theorem LeadsWithItsCode.aField (a : Byte) : LeadsWithItsCode.Statement (.aField a) :=
  ⟨_, rfl, rfl⟩

theorem LeadsWithItsCode.ciField (ci : Byte) : LeadsWithItsCode.Statement (.ciField ci) :=
  ⟨_, rfl, rfl⟩

theorem LeadsWithItsCode.leadByte (b : Byte) : LeadsWithItsCode.Statement (.leadByte b) :=
  ⟨_, rfl, rfl⟩

end Sys2Proof.Laws
end

