-- ==== Sys2Proof/Laws/Transport.lean ====
section
/-! SUPPORT. What the operations on the transport can do, said once each (45_wired_frame.md R336 to R357): a receive takes
bytes and leaves everything else; an exchange also sends its frame; LINK is Idle at every end. -/

namespace Sys2Proof.Machine

/-! ## Aborts -/

@[simp] theorem Scanner.abort_abort (sc : Scanner) : sc.abort.abort = sc.abort := by
  unfold Scanner.abort; split <;> simp_all

@[simp] theorem Scanner.abort_pos (sc : Scanner) : sc.abort.pos = sc.pos := by unfold Scanner.abort; split <;> rfl
@[simp] theorem Scanner.abort_value (sc : Scanner) : sc.abort.value = sc.value := by unfold Scanner.abort; split <;> rfl
@[simp] theorem Scanner.abort_found (sc : Scanner) : sc.abort.found = sc.found := by unfold Scanner.abort; split <;> rfl
@[simp] theorem Scanner.abort_stop (sc : Scanner) : sc.abort.stop = sc.stop := by unfold Scanner.abort; split <;> rfl
@[simp] theorem Scanner.abort_running (sc : Scanner) : sc.abort.running = sc.running := by
  unfold Scanner.abort; split <;> rfl

/-- An abort, if there is one, sets `abortReq` if a scan runs (R438). -/
theorem Scanner.abort_if (sc : Scanner) (b : Bool) :
    (if b then sc.abort else sc) = { sc with abortReq := sc.abortReq || (sc.running && b) } := by
  cases sc with
  | mk _ _ _ _ _ running => cases b <;> cases running <;> simp [Scanner.abort]

/-! ## Received -/

theorem State.Received.refl (s : State) : State.Received s s :=
  ⟨⟨[], rfl⟩, .inl rfl, rfl⟩

theorem State.Received.trans {s t u : State} (h : State.Received s t) (h' : State.Received t u) :
    State.Received s u := by
  obtain ⟨⟨es, he⟩, hs, ho⟩ := h
  obtain ⟨⟨es', he'⟩, hs', ho'⟩ := h'
  refine ⟨⟨es ++ es', by rw [he, he', List.append_assoc]⟩, ?_, ?_⟩
  · rcases hs with h1 | h1 <;> rcases hs' with h2 | h2 <;> simp [h1, h2]
  · rw [ho', ho]

/-- A receive leaves no more in the transport than there was. -/
theorem State.Received.length_le {s t : State} (h : State.Received s t) : t.tpIn.length ≤ s.tpIn.length := by
  obtain ⟨es, he⟩ := h.taken
  rw [he]; simp

/-- What a receive leaves alone, field by field. -/
theorem State.Received.fields {s t : State} (h : State.Received s t) :
    t.kind = s.kind ∧ t.port = s.port ∧ t.params = s.params ∧ t.fcb = s.fcb ∧ t.keymap = s.keymap ∧
    t.lastTx = s.lastTx ∧ t.link = s.link ∧ t.bcds = s.bcds ∧ t.addrs = s.addrs ∧ t.recs = s.recs ∧
    t.vdss = s.vdss ∧ t.msgs = s.msgs ∧ t.tpOut = s.tpOut ∧ t.evts = s.evts ∧ t.listener = s.listener ∧
    t.inp = s.inp ∧ t.resp = s.resp ∧ t.free = s.free := by
  have := h.others
  refine ⟨?_, ?_, ?_, ?_, ?_, ?_, ?_, ?_, ?_, ?_, ?_, ?_, ?_, ?_, ?_, ?_, ?_, ?_⟩ <;> rw [this]

/-- What a receive leaves of the scanner. -/
theorem State.Received.scan {s t : State} (h : State.Received s t) :
    t.scanner.pos = s.scanner.pos ∧ t.scanner.value = s.scanner.value ∧ t.scanner.found = s.scanner.found ∧
    t.scanner.stop = s.scanner.stop ∧ t.scanner.running = s.scanner.running := by
  rcases h.scanner with h | h <;> simp [h]

/-! ## Reads -/

theorem takeByte_suffix (es : List TpEvent) : ∃ taken, es = taken ++ (takeByte es).2.1 := by
  induction es with
  | nil => exact ⟨[], rfl⟩
  | cons e es ih =>
    cases e with
    | byte b => exact ⟨[.byte b], rfl⟩
    | timeout => exact ⟨[.timeout], rfl⟩
    | abort =>
      obtain ⟨tk, h⟩ := ih
      exact ⟨.abort :: tk, by simpa [takeByte] using h⟩
    | abortBetween =>
      obtain ⟨tk, h⟩ := ih
      exact ⟨.abortBetween :: tk, by simpa [takeByte] using h⟩

/-- A byte that was delivered was taken. -/
theorem takeByte_length {es : List TpEvent} {b : Byte} (h : (takeByte es).1 = some b) :
    (takeByte es).2.1.length < es.length := by
  induction es with
  | nil => simp [takeByte] at h
  | cons e es ih =>
    cases e with
    | byte b' => simp [takeByte]
    | timeout => simp [takeByte] at h
    | abort | abortBetween =>
      simp only [takeByte] at h ⊢
      have := ih h
      simp; omega

/-- The aborts that arrive before the next read are the first entries. -/
theorem takeAborts_eq (es : List TpEvent) :
    takeAborts es = (es.dropWhile (· == .abortBetween), es.head? == some .abortBetween) := by
  induction es with
  | nil => rfl
  | cons e es ih => cases e <;> simp [takeAborts, ih]

/-- TpReadByte takes from the transport and changes nothing else. -/
theorem tpReadByte_received (s : State) : State.Received s s.tpReadByte.2 := by
  obtain ⟨tk, h⟩ := takeByte_suffix s.tpIn
  refine ⟨⟨tk, h⟩, ?_, rfl⟩
  simp only [State.tpReadByte]
  cases (takeByte s.tpIn).2.2 <;> simp

/-- Looking at `abortReq`, field by field (R436, R438). -/
theorem State.lookAtAbort_eq (s : State) :
    s.lookAtAbort = { s with
      tpIn := s.tpIn.dropWhile (· == .abortBetween)
      scanner := { s.scanner with
        abortReq := s.scanner.abortReq || (s.scanner.running && s.tpIn.head? == some .abortBetween) } } := by
  simp only [State.lookAtAbort, takeAborts_eq, Scanner.abort_if]

/-- Looking at `abortReq` takes the aborts that arrived and changes nothing else (R438). -/
theorem State.lookAtAbort_received (s : State) : State.Received s s.lookAtAbort := by
  refine ⟨⟨s.tpIn.takeWhile (· == .abortBetween), ?_⟩, ?_, rfl⟩
  · rw [State.lookAtAbort_eq, List.takeWhile_append_dropWhile]
  · simp only [State.lookAtAbort]
    cases (takeAborts s.tpIn).2 <;> simp

/-- TpReadExactly takes from the transport and changes nothing else. -/
theorem tpReadExactly_received (n : Nat) (s : State) : State.Received s (s.tpReadExactly n).2 := by
  induction n generalizing s with
  | zero => exact .refl s
  | succ n ih =>
    have h1 := tpReadByte_received s
    simp only [State.tpReadExactly]
    cases hb : s.tpReadByte with
    | mk x t =>
      rw [hb] at h1
      cases x with
      | none => simpa using h1
      | some b => simpa using h1.trans (ih t)

/-- Bytes that the transport delivers are read as they stand. -/
theorem tpReadByte_delivered {s : State} {b : Byte} {more : List TpEvent} (h : s.tpIn = .byte b :: more) :
    s.tpReadByte = (some b, { s with tpIn := more }) := by
  rw [State.tpReadByte, h]; rfl

theorem tpReadExactly_delivered {s : State} {bs : Bytes} {more : List TpEvent} (h : s.tpIn = delivered bs ++ more) :
    s.tpReadExactly bs.length = (bs, { s with tpIn := more }) := by
  induction bs generalizing s with
  | nil => rw [show more = s.tpIn from h.symm]; rfl
  | cons b bs ih =>
    rw [List.length_cons, State.tpReadExactly, tpReadByte_delivered (show s.tpIn = .byte b :: (delivered bs ++ more) from h)]
    simp only
    rw [ih rfl]

/-- One turn of RX.FRAME takes from the transport and changes nothing else. -/
theorem rxOnce_received (s : State) : State.Received s (rxOnce s).2 := by
  unfold rxOnce
  have h1 := tpReadByte_received s
  cases hb : s.tpReadByte with
  | mk x t =>
    rw [hb] at h1
    cases x with
    | none => exact h1
    | some b =>
      simp only []
      split
      · exact h1
      · split
        · exact h1
        · have h2 := tpReadByte_received t
          cases hb2 : t.tpReadByte with
          | mk y u =>
            rw [hb2] at h2
            cases y with
            | none => exact h1.trans h2
            | some l =>
              have h3 := tpReadExactly_received (l.toNat + 4) u
              cases hb3 : State.tpReadExactly (l.toNat + 4) u with
              | mk bs w =>
                rw [hb3] at h3
                have h4 := (h1.trans h2).trans h3
                simp only [hb3]
                split
                · exact h4
                · split <;> exact h4

/-- A frame that was received was taken from the transport: what is left is shorter. -/
theorem rxOnce_takes {s t : State} {x : WiredFrame × Bytes} (h : rxOnce s = (.ok x, t)) :
    t.tpIn.length < s.tpIn.length := by
  unfold rxOnce at h
  cases hb : s.tpReadByte with
  | mk y u =>
    have hu : (takeByte s.tpIn).1 = y ∧ (takeByte s.tpIn).2.1 = u.tpIn := by
      simp only [State.tpReadByte] at hb
      injection hb with h1 h2
      exact ⟨h1, by rw [← h2]⟩
    rw [hb] at h
    cases y with
    | none => simp at h
    | some b =>
      have hlt : u.tpIn.length < s.tpIn.length := by rw [← hu.2]; exact takeByte_length hu.1
      simp only [] at h
      split at h
      · injection h with _ h; rw [← h]; exact hlt
      · split at h
        · simp at h
        · have h2 := (tpReadByte_received u).length_le
          cases hb2 : u.tpReadByte with
          | mk y v =>
            rw [hb2] at h h2
            cases y with
            | none => simp at h
            | some l =>
              have h3 := (tpReadExactly_received (l.toNat + 4) v).length_le
              simp only [] at h
              cases hb3 : State.tpReadExactly (l.toNat + 4) v with
              | mk bs w =>
                rw [hb3] at h h3
                simp only [] at h h2 h3
                split at h
                · simp at h
                · split at h
                  · simp at h
                  · injection h with _ h
                    rw [← h]; omega

/-- A long frame that arrives whole is checked, and exactly its bytes are taken (45_wired_frame.md R340). -/
theorem rxOnce_long {s : State} {l : Byte} {f : Bytes} {more : List TpEvent} (hf : f.length = l.toNat + 4)
    (h : s.tpIn = delivered (0x68#8 :: l :: f) ++ more) :
    rxOnce s = (match checkLongFrame s.params.rxEnforceIntegrity l (0x68#8 :: l :: f) with
      | .error c => .error c
      | .ok fr => .ok (.long fr, 0x68#8 :: l :: f), { s with tpIn := more }) := by
  rw [rxOnce, tpReadByte_delivered (show s.tpIn = .byte 0x68#8 :: .byte l :: (delivered f ++ more) from h)]
  simp only [show ¬(0x68#8 = 0xE5#8) by decide, if_false]
  rw [tpReadByte_delivered rfl]
  simp only
  rw [← hf, tpReadExactly_delivered rfl]
  simp only [Nat.lt_irrefl, if_false]
  cases checkLongFrame s.params.rxEnforceIntegrity l (0x68#8 :: l :: f) <;> simp

/-- RX.FRAME takes from the transport and changes nothing else (R340). -/
theorem rxLoop_received (fuel : Nat) (s : State) : State.Received s (rxLoop fuel s).2 := by
  induction fuel generalizing s with
  | zero => exact .refl s
  | succ n ih =>
    have h1 := rxOnce_received s
    simp only [rxLoop]
    cases hr : rxOnce s with
    | mk r t =>
      rw [hr] at h1
      cases r with
      | error c => exact h1
      | ok x =>
        obtain ⟨fr, fb⟩ := x
        simp only []
        split
        · exact h1.trans (ih t)
        · exact h1

theorem rxFrame_received (s : State) : State.Received s (rxFrame s).2 := rxLoop_received _ s

/-- Fuel beyond the bytes waiting changes nothing: the receive is a function of the state. -/
theorem rxLoop_fuel {s : State} {m n : Nat} (hm : s.tpIn.length < m) (hn : s.tpIn.length < n) :
    rxLoop m s = rxLoop n s := by
  induction m generalizing s n with
  | zero => omega
  | succ m ih =>
    cases n with
    | zero => omega
    | succ n =>
      simp only [rxLoop]
      cases hr : rxOnce s with
      | mk r t =>
        cases r with
        | error c => rfl
        | ok x =>
          obtain ⟨fr, fb⟩ := x
          have := rxOnce_takes hr
          simp only []
          split
          · exact ih (by omega) (by omega)
          · rfl

/-- RX.FRAME, one turn unrolled (R340, R342): the frame of the first turn, or the receive again if it is the echo. -/
theorem rxFrame_eq (s : State) :
    rxFrame s =
      match rxOnce s with
      | (.error c, t) => (.error c, t)
      | (.ok (fr, fb), t) => if t.lastTx = some fb then rxFrame t else (.ok fr, t) := by
  simp only [rxFrame]
  rw [rxLoop]
  cases hr : rxOnce s with
  | mk r t =>
    cases r with
    | error c => rfl
    | ok x =>
      obtain ⟨fr, fb⟩ := x
      have := rxOnce_takes hr
      simp only []
      split
      · exact rxLoop_fuel (by omega) (by omega)
      · rfl

/-! ## TX.FRAME -/

/-- TX.FRAME sends every byte string that does not lead with E5 (R91, R323). -/
theorem needSendable_ok {f : Bytes} : needSendable f = .ok () ↔ f.head? ≠ some 0xE5#8 := by
  unfold needSendable; split <;> simp_all

theorem needSendable_error {f : Bytes} {e : Ending} :
    needSendable f = .error e ↔ f.head? = some 0xE5#8 ∧ e = .refused .singleCharacterOnlyReceived := by
  unfold needSendable; split <;> simp_all [eq_comm]

/-- No frame of an encoder leads with E5. -/
theorem encShortFrame_head (c a : Byte) : (encShortFrame c a).head? = some 0x10#8 := rfl
theorem encLongFrame_head (c a ci : Byte) (data : Bytes) : (encLongFrame c a ci data).head? = some 0x68#8 := rfl

/-! ## Exchanges -/

/-- An exchange that does nothing before it receives: the frame is sent, LASTTX is the frame, LINK awaits, and the rest
is a receive. -/
theorem exchange_received (f : Bytes) (g : State → State) (s : State) :
    State.Received (g ((s.transmit f).setLink .awaitingResponse)) (exchange f g s).2 := rxFrame_received _

/-- What a link operation leaves: LINK is Idle, the frame was sent, the transport was read, and `before` was done; nothing
else (R346, R360). -/
theorem readExchange_spec (a : Byte) (s : State) :
    ∃ t, State.Received
        (((s.transmit (encShortFrame (reqUd2Control (fcbGet s.fcb a)) a)).setLink .awaitingResponse).setFcb
          (fcbToggle s.fcb a)) t ∧ (readExchange a s).2 = t.setLink .idle := by
  refine ⟨_, exchange_received _ (fun s => s.setFcb (fcbToggle s.fcb a)) s, ?_⟩
  unfold readExchange
  split <;> rename_i h <;> rw [h]

/-- The probe of the scanner leaves LINK Idle, has sent its frame, and has read the transport; nothing else (R357). -/
theorem scanselExchange_spec (f : Bytes) (s : State) :
    ∃ t, State.Received ((s.transmit f).setLink .awaitingResponse) t ∧ (scanselExchange f s).2 = t.setLink .idle := by
  refine ⟨_, exchange_received f id s, ?_⟩
  unfold scanselExchange
  split <;> rename_i h <;> rw [h]

/-- An acknowledged exchange always ends in a next state: `onAck` was done or was not, LINK is Idle, and the CMD port
returns nothing or one of the failures of R470. -/
theorem ackExchange_spec (f : Bytes) (g : State → State) (s : State) :
    ∃ t, State.Received ((s.transmit f).setLink .awaitingResponse) t ∧
      (ackExchange f g s = .next (((g t).setLink .idle).respond .none) ∨
        ∃ c, ackExchange f g s = .next ((t.setLink .idle).raise c)) := by
  refine ⟨_, exchange_received f id s, ?_⟩
  unfold ackExchange
  cases hx : exchange f id s with
  | mk r t =>
    cases r with
    | error c => exact .inr ⟨c, rfl⟩
    | ok fr =>
      cases fr with
      | singleCharacter => exact .inl rfl
      | long fr => exact .inr ⟨_, rfl⟩

end Sys2Proof.Machine
end

