-- ==== Sys2Proof/Laws/Scan.lean ====
section
/-! SUPPORT. What the moves of the scanner and a step of a scan can change (48_scanner.md R428, R430, R434). -/

namespace Sys2Proof.Machine

/-! ## Narrowing and advancing -/

@[simp] theorem Scanner.narrow_found (sc : Scanner) : sc.narrow.found = sc.found := rfl
@[simp] theorem Scanner.narrow_stop (sc : Scanner) : sc.narrow.stop = sc.stop := rfl
@[simp] theorem Scanner.narrow_abortReq (sc : Scanner) : sc.narrow.abortReq = sc.abortReq := rfl
@[simp] theorem Scanner.narrow_running (sc : Scanner) : sc.narrow.running = sc.running := rfl
@[simp] theorem Scanner.narrow_pos (sc : Scanner) : sc.narrow.pos = sc.pos + 1 := rfl
@[simp] theorem Scanner.narrow_length (sc : Scanner) : sc.narrow.value.length = sc.value.length := by
  simp [Scanner.narrow]

theorem wildAfter_length {pos : Nat} {value : List Nat} (h : pos < value.length) :
    (wildAfter pos value).length = value.length := by
  simp only [wildAfter, List.length_append, List.length_take, List.length_replicate]
  omega

/-- The carry loop writes `pos`, `value` and `stop` only. -/
theorem advCarry_others (n : Nat) (sc : Scanner) :
    (advCarry n sc).found = sc.found ∧ (advCarry n sc).abortReq = sc.abortReq ∧
    (advCarry n sc).running = sc.running ∧ (sc.stop = true → (advCarry n sc).stop = true) := by
  induction n generalizing sc with
  | zero => exact ⟨rfl, rfl, rfl, fun _ => rfl⟩
  | succ n ih =>
    simp only [advCarry]
    split
    · exact ih _
    · exact ⟨rfl, rfl, rfl, id⟩

/-- The carry loop entered at `n` ends at `n` or below, or at position `pos` if it is entered at 0, and keeps the length. -/
theorem advCarry_shape (n : Nat) (sc : Scanner) (hn : n ≤ sc.pos) (hv : sc.pos < sc.value.length) :
    (advCarry n sc).pos ≤ sc.pos ∧ (advCarry n sc).value.length = sc.value.length := by
  induction n generalizing sc with
  | zero => exact ⟨Nat.le_refl _, rfl⟩
  | succ n ih =>
    have hl : (wildAfter n (sc.value.set n (sc.value.getD n 0 + 1))).length = sc.value.length := by
      rw [wildAfter_length (by rw [List.length_set]; omega), List.length_set]
    simp only [advCarry]
    split
    · have := ih { sc with pos := n, value := wildAfter n (sc.value.set n (sc.value.getD n 0 + 1)) } (Nat.le_refl n)
        (by simp only [hl]; omega)
      simp only [hl] at this
      omega
    · exact ⟨by simp only; omega, hl⟩

/-- SCAN.ADV writes `pos`, `value` and `stop` only (R430). -/
theorem Scanner.adv_others (sc : Scanner) :
    sc.adv.found = sc.found ∧ sc.adv.abortReq = sc.abortReq ∧ sc.adv.running = sc.running ∧
    (sc.stop = true → sc.adv.stop = true) := by
  simp only [Scanner.adv]
  split
  · exact ⟨rfl, rfl, rfl, id⟩
  · exact advCarry_others _ _

/-- SCAN.ADV never raises `pos`, and keeps the 16 nibbles. -/
theorem Scanner.adv_shape {sc : Scanner} (h : sc.pos < sc.value.length) :
    sc.adv.pos ≤ sc.pos ∧ sc.adv.value.length = sc.value.length := by
  simp only [Scanner.adv]
  split
  · exact ⟨Nat.le_refl _, List.length_set⟩
  · have := advCarry_shape sc.pos { sc with value := sc.value.set sc.pos (sc.value.getD sc.pos 0 + 1) } (Nat.le_refl _)
      (by simpa using h)
    simpa using this

/-! ## A step of the scan -/

/-- Recording an address writes `found` and the events only. -/
theorem State.found_eq (a : SecondaryAddress) (s : State) :
    ∃ evts, s.found a = { s with scanner := (s.found a).scanner, evts := evts } ∧
      (s.found a).scanner = (if s.scanner.found.any (fun e => saEq e a) then s.scanner else s.scanner.record a) := by
  unfold State.found
  split
  · exact ⟨s.evts, rfl, rfl⟩
  · rw [State.emit_eq]
    exact ⟨_, rfl, rfl⟩

/-- What SCAN.STEP does with an outcome writes the scanner and the events only. -/
theorem scanMove_eq (o : ScanOutcome) (s : State) : ∃ sc evts, scanMove o s = { s with scanner := sc, evts := evts } := by
  cases o with
  | noAnswer => exact ⟨s.scanner.adv, s.evts, rfl⟩
  | one a =>
    obtain ⟨evts, h, _⟩ := State.found_eq a s
    exact ⟨(s.found a).scanner.adv, evts, by rw [scanMove, h]; rfl⟩
  | collision => exact ⟨_, s.evts, rfl⟩

/-- The probe, and the read if it was answered. -/
theorem probe_eq (f : Bytes) (s : State) :
    probe f s =
      (if (scanselExchange f s).1 then
        (readOutcome (readExchange Config.selAddr (scanselExchange f s).2).1,
          (readExchange Config.selAddr (scanselExchange f s).2).2)
      else (.noAnswer, (scanselExchange f s).2)) := by
  unfold probe
  cases h : scanselExchange f s with
  | mk b t =>
    cases b with
    | false => rfl
    | true => simp only [if_true]

/-- A step of the scan is the probe, one message, and the move (R434). -/
theorem scanStep_eq (s : State) :
    scanStep s = scanMove (probe (probeFrame s) s).1 (probe (probeFrame s) s).2.scanMessage := rfl

/-! ## The loop -/

/-- The loop looks at `abortReq` before a step, and ends without one if that or `stop` is set (R436). -/
theorem scanLoop_ended {fuel : Nat} {s : State} (h : s.lookAtAbort.scanner.stop = true ∨ s.lookAtAbort.scanner.abortReq = true) :
    scanLoop fuel s = s.lookAtAbort := by
  cases fuel with
  | zero => rfl
  | succ n => exact if_pos (by simpa using h)

/-- Otherwise it makes a step and goes on. -/
theorem scanLoop_step {fuel : Nat} {s : State} (hs : s.lookAtAbort.scanner.stop = false)
    (ha : s.lookAtAbort.scanner.abortReq = false) : scanLoop (fuel + 1) s = scanLoop fuel (scanStep s.lookAtAbort) :=
  if_neg (by simp [hs, ha])

end Sys2Proof.Machine
end

