-- ==== Sys2Proof/Tests/Slice0.lean ====
section
/-! SUPPORT. Tests. The expected results are those of 95_test_vectors.md (named S<n>, V<n>, P<n> or by its section), or are
calculated by hand from the rule named. Three parts: requests refused by `Instr.wf` and words decoded, one step of each
instruction, and for each statement with hypotheses a concrete case of each of its clauses (`witness_…`). -/

open Sys2Proof Sys2Proof.Machine

namespace Sys2Proof.Tests

set_option Elab.async false

/-! ## Helpers -/

/-- The outcome is a next state that meets `p`. -/
def nextIs (o : Out) (p : State → Bool) : Bool :=
  match o with
  | .next t => p t
  | .fault _ => false
  | .refused _ => false

/-- The outcome is the result `v` (and only the CMD response is looked at). -/
def answers (v : Value) (o : Out) : Bool := nextIs o (fun t => t.resp == some (.result v))

/-- The outcome is the exception `c`. -/
def raises (c : Cause) (o : Out) : Bool := nextIs o (fun t => t.resp == some (.exception c))

/-- The outcome is the refusal `r`. -/
def refuses (r : Refusal) (o : Out) : Bool :=
  match o with
  | .refused x => x == r
  | _ => false

/-- The outcome is the fault `f`. -/
def faults (f : Fault) (o : Out) : Bool :=
  match o with
  | .fault x => x == f
  | _ => false

theorem exists_next {o : Out} {P : State → Prop} (q : State → Bool) (h : nextIs o q = true)
    (hq : ∀ t, q t = true → P t) : ∃ t, o = .next t ∧ P t := by
  cases o with
  | next t => exact ⟨t, rfl, hq t h⟩
  | fault _ => cases h
  | refused _ => cases h

theorem next_answers {o : Out} {v : Value} (h : answers v o = true) :
    ∃ t, o = .next t ∧ t.resp = some (.result v) :=
  exists_next _ h (fun _ ht => by simpa using ht)

theorem next_raises {o : Out} {c : Cause} (h : raises c o = true) :
    ∃ t, o = .next t ∧ t.resp = some (.exception c) :=
  exists_next _ h (fun _ ht => by simpa using ht)

/-- The bytes decode to `i` with nothing left over. -/
def reads (bs : Bytes) (i : Instr) : Bool :=
  match decode bs with
  | .ok (j, []) => i == j
  | _ => false

/-- The bytes are rejected with `e`. -/
def rejects (bs : Bytes) (e : DecodeError) : Bool :=
  match decode bs with
  | .error x => x == e
  | _ => false

/-- A decoder's value is `a`. -/
def gives {α : Type} [BEq α] (a : α) (r : Dec α) : Bool :=
  match r with
  | .ok x => x == a
  | .error _ => false

/-- A wired session whose transport will deliver `bs`, and then lets every read time out. -/
def wired (bs : Bytes) : State := { State.reset with tpIn := delivered bs }

/-- A wireless session. -/
def wireless : State := { State.reset with kind := .wireless }

/-- The Bcd -234 5678 (F-BCD `78 56 34 F2`). -/
def bcdNeg : Bcd := { bytes := [0x78, 0x56, 0x34, 0xF2], negative := true, digits := [8, 7, 6, 5, 4, 3, 2] }

/-- The Bcd 67991306. -/
def bcd679 : Bcd := { bytes := [0x06, 0x13, 0x99, 0x67], negative := false, digits := [6, 0, 3, 1, 9, 9, 7, 6] }

/-- The LUG meter of S5, its address in link-layer order. -/
def lugLl : SecondaryAddress :=
  { manufacturerId := ['L', 'U', 'G'], deviceId := bcd679, version := 0x07, deviceType := 0x04,
    raw := [0xA7, 0x32, 0x06, 0x13, 0x99, 0x67, 0x07, 0x04] }

/-- The same meter in long-header order. -/
def lugLh : SecondaryAddress := { lugLl with raw := [0x06, 0x13, 0x99, 0x67, 0xA7, 0x32, 0x07, 0x04] }

/-- A wired session with the two addresses as objects. -/
def twoAddrs (bs : Bytes) : State := { wired bs with addrs := [lugLh, lugLl] }

/-- A key of 16 bytes. -/
def key0 : Bytes := [0x00, 0x01, 0x02, 0x03, 0x04, 0x05, 0x06, 0x07, 0x08, 0x09, 0x0A, 0x0B, 0x0C, 0x0D, 0x0E, 0x0F]

/-- The record of a BCD value of 12345678 Wh times 10^3 (vector 2.3, line 2). -/
def recE : DataRecord :=
  { dib := [0x0C], vib := [0x06], functionField := .instVal, storageNumber := 0, tariff := 0, subunit := 0,
    description := .energy, unit := .wattHour, multiplierExponent := 3,
    dataValue := .bcd { bytes := [0x78, 0x56, 0x34, 0x12], negative := false, digits := [8, 7, 6, 5, 4, 3, 2, 1] } }

/-- The same record with another value. -/
def recOf (v : DataValue) : DataRecord := { recE with dataValue := v }

/-- A VDS object over the whole of `bs`, phase Raw, without keys. -/
def rawVds (bs : Bytes) : Vds := Vds.new bs 0 bs.length none false

/-- A session with one VDS. -/
def withVds (v : Vds) : State := { State.reset with vdss := [v] }

/-- A wireless session with one message over `buf`. -/
def withMsg (buf : Bytes) : State := { wireless with msgs := [WlMessage.new buf [0x01]] }

/-- The 46 bytes of S5. -/
def s5 : Bytes :=
  [0x2C, 0x44, 0xA7, 0x32, 0x06, 0x13, 0x99, 0x67, 0x07, 0x04, 0x7A, 0x2A, 0x10, 0x00, 0x20, 0x2F, 0x2F, 0x0C,
      0x06, 0x00, 0x00, 0x00, 0x00, 0x0C, 0x14, 0x00, 0x00, 0x00, 0x00, 0x0C, 0x22, 0x38, 0x17, 0x01, 0x00, 0x0B,
      0x5A, 0x17, 0x02, 0x00, 0x0B, 0x5E, 0x17, 0x02, 0x00, 0x6E]

/-- The 47 bytes of the frame of P3. -/
def p3 : Bytes :=
  [0x2E, 0x44, 0xA7, 0x32, 0x78, 0x56, 0x34, 0x12, 0x07, 0x04, 0x7A, 0x2A, 0x00, 0x20, 0x05, 0x11, 0x57, 0x98,
      0x5D, 0x3A, 0xAB, 0xAB, 0xD6, 0x71, 0x0B, 0xB2, 0x52, 0xBA, 0xCA, 0x58, 0x44, 0xE8, 0xF5, 0x09, 0x01, 0xAA,
      0x5C, 0x18, 0x68, 0x55, 0x30, 0x87, 0x73, 0xE9, 0x45, 0x08, 0x2C]

/-- A scanner with `pos` and the first nibbles; the others are wildcards. -/
def scanAt (pos : Nat) (v : List Nat) : Scanner :=
  { pos := pos, value := v ++ List.replicate (16 - v.length) 15, found := [], stop := false, abortReq := false,
    running := true }

/-- A wired session with that scanner. -/
def scanning (pos : Nat) (v : List Nat) (bs : Bytes) : State := { wired bs with scanner := scanAt pos v }

/-! ## Ill-formed requests are refused by `Instr.wf` -/

theorem test_wf_keyGet_raw_seven : (Instr.keyGet (.raw [0x01, 0x02, 0x03, 0x04, 0x05, 0x06,
      0x07])).wf = false := by decide +kernel
theorem test_wf_bcdEnc_no_byte : (Instr.bcdEnc 5 0).wf = false := by decide +kernel
theorem test_wf_scansel_nine : (Instr.lnkScansel [0xFF, 0xFF, 0xFF, 0xFF, 0xFF, 0xFF, 0xFF, 0xFF,
      0xFF] 0).wf = false := by decide +kernel
theorem test_wf_scanPack_fifteen : (Instr.scanPack (List.replicate 15 0x0F)).wf = false := by decide +kernel
theorem test_wf_fData_sixteen : (Instr.fData 0x10 .numeric []).wf = false := by decide +kernel
theorem test_wf_fIv_seven : (Instr.fIv [0x01, 0x02, 0x03, 0x04, 0x05, 0x06,
      0x07] 0x2A).wf = false := by decide +kernel
theorem test_wf_fWild_seventeen : (Instr.fWild (List.replicate 17 0x0F)).wf = false := by decide +kernel
theorem test_wf_accepts : ((Instr.bcdEnc 5 1).wf && (Instr.fData 0x0F .date []).wf &&
    (Instr.keyGet (.raw [0x01, 0x02, 0x03, 0x04, 0x05, 0x06, 0x07, 0x08])).wf) = true := by decide +kernel

/-! ## Decoding: words written out from R130 and log 3, every constructor -/

theorem test_decode_session :
    (reads [0x00, 0x01, 0x81, 0x01] (.sesOpen .wireless 129) && reads [0x01, 0x00, 0x02, 0x03, 0xAA, 0xBB,
      0xCC] (.keyAdd (.obj 2) [0xAA, 0xBB, 0xCC]) &&
     reads [0x02, 0x03, 0x01] (.keyDel (.found 1)) && reads [0x03, 0x01, 0x02, 0x04] (.keyGet (.sa (.ofMsg 4))) &&
     reads [0x03, 0x00, 0x01, 0x02, 0x03, 0x04, 0x05, 0x06, 0x07, 0x08] (.keyGet (.raw [0x01, 0x02, 0x03, 0x04,
      0x05, 0x06, 0x07, 0x08])) &&
     reads [0x04, 0xFD] (.fcbGet 0xFD)) = true := by decide +kernel

theorem test_decode_bcd :
    (reads [0x10, 0x02, 0x12, 0x34] (.bcdDec [0x12, 0x34]) && reads [0x11, 0x00, 0x05] (.bcdStr (.obj 5)) &&
     reads [0x12, 0x01, 0x01, 0x07] (.bcdInt (.deviceId (.ofVds 7))) &&
     reads [0x13, 0x02, 0x01, 0x03, 0x04] (.bcdLong (.dataValue (.ofVds 3 4))) && reads [0x14, 0x13,
      0x00] (.bcdEnc (-10) 1) &&
     reads [0x14, 0x14, 0x03] (.bcdEnc 10 4)) = true := by decide +kernel

theorem test_decode_sa :
    (reads [0x18, 0xA7, 0x32] (.manDec 0xA7 0x32) && reads [0x19, 0x03, 0x4C, 0x55, 0x47] (.manEnc ['L', 'U', 'G']) &&
     reads [0x1A, 0x01, 0x99, 0x00] (.saLh [0x99] 0) && reads [0x1B, 0x00, 0x02] (.saLl [] 2) && reads [0x1C, 0x00,
      0x01] (.saRaw (.obj 1)) &&
     reads [0x1D, 0x00, 0x01, 0x02, 0x03] (.saEq (.obj 1) (.ofMsg 3)) && reads [0x1E, 0x01, 0x00, 0x03,
      0x01] (.saCmp (.ofVds 0) (.found 1)) &&
     reads [0x1F, 0x01, 0x41, 0x02, 0x07, 0x04, 0x01] (.saBuild ['A'] 1 0x07 0x04 .ll)) = true := by decide +kernel

theorem test_decode_data :
    (reads [0x20, 0x02, 0x0C, 0x06, 0x00, 0x02] (.drDec [0x0C, 0x06] 0 2) && reads [0x21, 0x00,
      0x09] (.drScale (.obj 9)) &&
     reads [0x28, 0x01, 0x11, 0x01, 0x22, 0x01, 0x33, 0x04, 0x05, 0x06] (.aesDecrypt [0x11] [0x22] [0x33] 4 5 6) &&
     reads [0x29, 0x01, 0x11, 0x01, 0x22, 0x01, 0x33] (.aesEncrypt [0x11] [0x22] [0x33]) &&
     reads [0x30, 0x01, 0x78, 0x02, 0x03, 0x01, 0x00, 0x04, 0x00] (.vdsNew [0x78] 2 3 (some (.obj 4)) false) &&
     reads [0x30, 0x00, 0x00, 0x00, 0x00, 0x01] (.vdsNew [] 0 0 none true) && reads [0x31,
      0x02] (.vdsDec 2)) = true := by decide +kernel

theorem test_decode_frames :
    (reads [0x40, 0x7B, 0x01] (.encShort 0x7B 0x01) && reads [0x41, 0x73, 0x01, 0x51, 0x02, 0x0A,
      0x0B] (.encLong 0x73 0x01 0x51 [0x0A, 0x0B]) &&
     reads [0x42, 0x01, 0xFF] (.chkSum [0xFF]) && reads [0x43, 0x01, 0xE5] (.chkVerify [0xE5]) && reads [0x44,
      0x01, 0x68] (.decFrame [0x68]) &&
     reads [0x45, 0x01, 0x10] (.decShort [0x10]) && reads [0x46, 0x01, 0xE5] (.txFrame [0xE5]) && reads [0x47,
      0x64] (.rxFrame 100)) = true := by
  decide +kernel

theorem test_decode_link :
    (reads [0x50, 0x01, 0x64] (.lnkRead 0x01 100) && reads [0x51, 0x01, 0x01, 0xAA,
      0x64] (.lnkWrite 0x01 [0xAA] 100) &&
     reads [0x52, 0x02, 0x64] (.lnkReset 0x02 100) && reads [0x53, 0x00, 0x01, 0x64] (.lnkSelect (.obj 1) 100) &&
     reads [0x54, 0x00, 0x01, 0x64] (.lnkDeselect (.obj 1) 100) && reads [0x55, 0x03, 0x00,
      0x64] (.lnkSelrd 0x03 [] 100) &&
     reads [0x56, 0x04, 0x64] (.lnkRstrd 0x04 100) &&
     reads [0x57, 0x01, 0x02, 0x03, 0x04, 0x05, 0x06, 0x07, 0x08, 0x64] (.lnkScansel [0x01, 0x02, 0x03, 0x04, 0x05,
      0x06, 0x07, 0x08] 100)) = true := by decide +kernel

theorem test_decode_wireless_and_scan :
    (reads [0x60, 0x01, 0xAA, 0x01, 0xBB] (.wlNew [0xAA] [0xBB]) && reads [0x61, 0x03] (.wlDec 3) && reads [0x62,
      0x03] (.wlDeep 3) &&
     reads [0x70, 0x01, 0x66] (.scanInit ['f']) && reads [0x71, 0x64] (.scanStep 100) && reads [0x72] .scanAdv &&
     reads [0x73] .scanNarrow && reads [0x74, 0x01, 0x66, 0x64] (.scanRun ['f'] 100) && reads [0x75] .scanAbort &&
     reads [0x76, 0x00, 0x01, 0x02, 0x03, 0x04, 0x05, 0x06, 0x07, 0x08, 0x09, 0x0A, 0x0B, 0x0C, 0x0D, 0x0E, 0x0F]
       (.scanPack [0x00, 0x01, 0x02, 0x03, 0x04, 0x05, 0x06, 0x07, 0x08, 0x09, 0x0A, 0x0B, 0x0C, 0x0D, 0x0E, 0x0F]) &&
     reads [0x77, 0x02, 0x66, 0x31] (.maskFlip ['f', '1'])) = true := by decide +kernel

theorem test_decode_formats :
    (reads [0xE5] .fAck && reads [0x80, 0x01, 0x10] (.fShort [0x10]) && reads [0x81, 0x01, 0x68] (.fLong [0x68]) &&
     reads [0x82, 0x01, 0x2C] (.fWl [0x2C]) && reads [0x83, 0x01, 0x06] (.fSaLh [0x06]) && reads [0x84, 0x01,
      0xA7] (.fSaLl [0xA7]) &&
     reads [0x85, 0xA7, 0x32] (.fMan 0xA7 0x32) && reads [0x86, 0x01, 0x2A] (.fSh [0x2A]) && reads [0x87, 0x01,
      0x06] (.fLh [0x06]) &&
     reads [0x88, 0x01, 0x0C] (.fDib [0x0C]) && reads [0x89, 0x01, 0x06] (.fVib [0x06]) &&
     reads [0x8A, 0x02, 0x01, 0x01, 0x06] (.fData 0x02 .date [0x06]) && reads [0x8B, 0x01,
      0x00] (.lvar [0x00])) = true := by decide +kernel

theorem test_decode_bit_patterns :
    (reads [0x8C, 0x2F] (.special 0x2F) && reads [0x8D, 0x01, 0x12] (.fBcd [0x12]) &&
     reads [0x8E, 0x01, 0x02, 0x03, 0x04, 0x05, 0x06, 0x07, 0x08, 0x2A] (.fIv [0x01, 0x02, 0x03, 0x04, 0x05, 0x06,
      0x07, 0x08] 0x2A) &&
     reads [0x8F, 0x00, 0x01, 0x02, 0x03, 0x04, 0x05, 0x06, 0x07, 0x08, 0x09, 0x0A, 0x0B, 0x0C, 0x0D, 0x0E, 0x0F]
       (.fWild [0x00, 0x01, 0x02, 0x03, 0x04, 0x05, 0x06, 0x07, 0x08, 0x09, 0x0A, 0x0B, 0x0C, 0x0D, 0x0E, 0x0F]) &&
     reads [0x90, 0x40] (.cField 0x40) && reads [0x91, 0x08] (.rspUdTest 0x08) && reads [0x5B] (.reqUd2 false) &&
     reads [0x7B] (.reqUd2 true) && reads [0x92, 0xFD] (.aField 0xFD) && reads [0x93, 0x72] (.ciField 0x72) &&
     reads [0x94, 0x68] (.leadByte 0x68)) = true := by decide +kernel

theorem test_decode_rejects :
    (rejects [] .empty && rejects [0x05] (.unknownCode 0x05) && rejects [0x95] (.unknownCode 0x95) &&
     rejects [0x50, 0x01] .truncated && rejects [0x1C, 0x04, 0x00] (.badTag 0x04) && rejects [0x8A, 0x10, 0x00,
      0x00] (.badNibble 0x10) &&
     rejects [0x19, 0x01, 0x80, 0xB0, 0x03] (.badCharacter 0xD800)) = true := by decide +kernel

/-- Table words: SES.OPEN (8 bits, 0x00), LNK.READ (0x50), REQ-UD2 with `f = 1` (0x7B). -/
theorem test_table_words :
    (decodeTableWord 8 0x00 == some (.sesOpen .wired 0) && decodeTableWord 8 0x50 == some (.lnkRead 0 0) &&
     decodeTableWord 8 0x7B == some (.reqUd2 true) && decodeTableWord 8 0x14 == some (.bcdEnc 0 1) &&
     decodeTableWord 8 0x76 == some (.scanPack (List.replicate 16 0))) = true := by decide +kernel

/-! ## The step -/

theorem test_step_runs_table_word :
    nextIs (step (State.reset.withFetchWord 8 0x50))
      (fun t => t.tpOut == [[0x10, 0x7B, 0x00, 0x7B, 0x16]] && t.inp == []) = true := by decide +kernel

theorem test_step_waits : nextIs (step State.reset) (fun t => t == State.reset) = true := by decide +kernel

/-- P2 step 1: a delivered buffer becomes a message in phase Raw, with one event. -/
theorem test_step_delivers :
    nextIs (step { wireless with inp := [.wlDeliver s5 [0x01]] })
      (fun t => t.msgs == [WlMessage.new s5 [0x01]] && t.evts == [.onMessage 0 [0x01]]) = true := by decide +kernel

theorem test_step_forwards :
    nextIs (step { wireless with inp := [.wlStopped [0x09]] }) (fun t => t.evts == [.onStoppedListening [0x09]]) = true := by
  decide +kernel

/-! ## Session, keys, frame count bits (vectors 2.9) -/

theorem test_sesOpen :
    nextIs (exec (.sesOpen .wireless 3) { twoAddrs [] with keymap := [(lugLl.raw, key0)] })
      (fun t => t.kind == .wireless && t.port == 3 && t.keymap == [] && t.addrs == []) = true := by decide +kernel

theorem test_keyAdd_is_by_raw :
    nextIs (exec (.keyAdd (.obj 1) key0) (twoAddrs []))
      (fun t => answers (.key (some key0)) (exec (.keyGet (.sa (.obj 1))) t) &&
        answers (.key none) (exec (.keyGet (.sa (.obj 0))) t)) = true := by decide +kernel

theorem test_keyAdd_fifteen : refuses .badKeyOrIvLength (exec (.keyAdd (.obj 1) (key0.drop 1)) (twoAddrs [])) = true := by
  decide +kernel

theorem test_keyDel :
    nextIs (exec (.keyDel (.obj 1)) { twoAddrs [] with keymap := [(lugLh.raw, key0), (lugLl.raw, key0)] })
      (fun t => t.keymap == [(lugLh.raw, key0)]) = true := by decide +kernel

theorem test_keyGet_raw :
    answers (.key (some key0)) (exec (.keyGet (.raw [0xA7, 0x32, 0x06, 0x13, 0x99, 0x67, 0x07, 0x04]))
      { wired [] with keymap := [(lugLh.raw, List.replicate 16 0), (lugLl.raw, key0)] }) = true := by decide +kernel

theorem test_fcbGet : answers (.bit true) (exec (.fcbGet 0xFD) State.reset) = true := by decide +kernel

/-! ## BCD unit (S1, vectors 2.1) -/

theorem test_bcdDec_S1 :
    nextIs (exec (.bcdDec [0x44, 0x44, 0x44, 0xF4]) State.reset)
      (fun t => t.bcds == [{ bytes := [0x44, 0x44, 0x44, 0xF4], negative := true, digits := [4, 4, 4, 4, 4, 4,
      4] }]) = true := by
  decide +kernel

theorem test_bcdDec_sentinel_only_in_last_byte : raises .bcdInvalidNibble (exec (.bcdDec [0xF1,
      0x23]) State.reset) = true := by
  decide +kernel

theorem test_bcdStr_negative_zero :
    answers (.text ['-', '0', '0', '0']) (exec (.bcdStr (.obj 0))
      { State.reset with bcds := [{ bytes := [0x00, 0xF0], negative := true, digits := [0, 0,
      0] }] }) = true := by decide +kernel

theorem test_bcdInt_device_id :
    answers (.int32 (BitVec.ofInt 32 67991306)) (exec (.bcdInt (.deviceId (.obj 0))) (twoAddrs [])) = true := by
  decide +kernel

theorem test_bcdLong_S1 :
    answers (.int64 (BitVec.ofInt 64 (-2345678))) (exec (.bcdLong (.obj 0)) { State.reset with bcds := [bcdNeg] }) = true := by
  decide +kernel

theorem test_bcdEnc : answers (.bytes [0x44, 0x44, 0x44,
      0xF4]) (exec (.bcdEnc (-4444444) 4) State.reset) = true := by decide +kernel

theorem test_bcdEnc_range : refuses .bcdEncodeRange (exec (.bcdEnc (-10) 1) State.reset) = true := by decide +kernel

/-! ## SA unit (S2, vectors 2.2) -/

theorem test_manDec : answers (.text ['L', 'U',
      'G']) (exec (.manDec 0xA7 0xB2) State.reset) = true := by decide +kernel

theorem test_manEnc : answers (.bytes [0x2D, 0x2C]) (exec (.manEnc ['K', 'A',
      'M']) State.reset) = true := by decide +kernel

theorem test_manEnc_lower : refuses .manufacturerIdNotUppercase (exec (.manEnc ['l', 'u', 'g']) State.reset) = true := by
  decide +kernel

theorem test_saLh :
    nextIs (exec (.saLh [0x00, 0x06, 0x13, 0x99, 0x67, 0xA7, 0x32, 0x07,
      0x04] 1) State.reset) (fun t => t.addrs == [lugLh]) = true := by decide +kernel

theorem test_saLl : nextIs (exec (.saLl [0xA7, 0x32, 0x06, 0x13, 0x99, 0x67, 0x07,
      0x04] 0) State.reset) (fun t => t.addrs == [lugLl]) = true := by
  decide +kernel

theorem test_saLl_wrong_order :
    raises .bcdInvalidNibble (exec (.saLl [0x06, 0x13, 0x99, 0x67, 0xA7, 0x32, 0x07,
      0x04] 0) State.reset) = true := by decide +kernel

theorem test_saRaw : answers (.bytes [0xA7, 0x32, 0x06, 0x13, 0x99, 0x67, 0x07,
      0x04]) (exec (.saRaw (.obj 1)) (twoAddrs [])) = true := by
  decide +kernel

theorem test_saEq_two_forms : answers (.bit false) (exec (.saEq (.obj 0) (.obj 1)) (twoAddrs [])) = true := by decide +kernel

theorem test_saCmp : answers (.order (-1)) (exec (.saCmp (.obj 0) (.obj 1)) (twoAddrs [])) = true := by decide +kernel

theorem test_saBuild :
    nextIs (exec (.saBuild ['L', 'U', 'G'] 67991306 7 4 .ll) State.reset) (fun t => t.addrs == [lugLl]) = true := by
  decide +kernel

/-! ## DR unit (vectors 2.3) -/

theorem test_drDec_window :
    nextIs (exec (.drDec [0xAA, 0x0C, 0x06, 0x78, 0x56, 0x34, 0x12, 0xBB] 1 6) State.reset)
      (fun t => t.recs == [recE] && t.resp == some (.result (.record 0 7))) = true := by decide +kernel

theorem test_drDec_dife :
    nextIs (exec (.drDec [0x8C, 0x91, 0x02, 0x06, 0x78, 0x56, 0x34, 0x12] 0 8) State.reset)
      (fun t => t.recs == [
        { recE with dib := [0x8C, 0x91, 0x02], storageNumber := 66, tariff := 1 }]) = true := by decide +kernel

/-- 474240 times 10^-3 is 474.24. -/
theorem test_drScale :
    answers (.scaled (.rational (mkRat 47424 100))) (exec (.drScale (.obj 0))
      { State.reset with recs := [{ recOf (.long 474240) with multiplierExponent := BitVec.ofInt 8 (-3) }] }) = true := by
  decide +kernel

/-! ## AES unit (vectors A1, A3, A4 of 2.4) -/

theorem test_aesEncrypt_A1_first_block :
    answers (.bytes [0x69, 0xC4, 0xE0, 0xD8, 0x6A, 0x7B, 0x04, 0x30, 0xD8, 0xCD, 0xB7, 0x80, 0x70, 0xB4, 0xC5,
      0x5A]) (exec (.aesEncrypt key0 (List.replicate 16 0)
      [0x00, 0x11, 0x22, 0x33, 0x44, 0x55, 0x66, 0x77, 0x88, 0x99, 0xAA, 0xBB, 0xCC, 0xDD, 0xEE,
      0xFF]) State.reset) = true := by decide +kernel

theorem test_aesDecrypt_A3 :
    answers (.bytes [0x2F, 0x2F, 0x0C, 0x06, 0x78, 0x56, 0x34, 0x12, 0x0B, 0x5A, 0x17, 0x02, 0x00, 0x2F, 0x2F,
      0x2F]) (exec (.aesDecrypt [0x4E, 0x55, 0x08, 0x54, 0x42, 0x02, 0x05, 0x81, 0x00, 0xDF, 0xEF, 0xA0, 0x6B,
      0x09, 0x34, 0xA5]
      [0xA7, 0x32, 0x06, 0x13, 0x99, 0x67, 0x07, 0x04, 0x2A, 0x2A, 0x2A, 0x2A, 0x2A, 0x2A, 0x2A, 0x2A] [0xDA, 0x0A,
      0x7C, 0x8F, 0x11, 0xF8, 0xB6, 0x0B, 0xCF, 0x9E, 0x3F, 0x05, 0x62, 0x8B, 0xEB,
      0x70] 0 16 1) State.reset) = true := by decide +kernel

theorem test_aesDecrypt_A4 :
    answers (.bytes [0x51, 0x9B, 0x84, 0x41, 0x32, 0xFA, 0xA7, 0xCD, 0x8A, 0xDA, 0x3B, 0xED, 0xF9, 0x98, 0xF3,
      0x17]) (exec (.aesDecrypt [0x4E, 0x55, 0x08, 0x54, 0x42, 0x02, 0x05, 0x81, 0x00, 0xDF, 0xEF, 0xA0, 0x6B,
      0x09, 0x34, 0xAF]
      [0xA7, 0x32, 0x06, 0x13, 0x99, 0x67, 0x07, 0x04, 0x2A, 0x2A, 0x2A, 0x2A, 0x2A, 0x2A, 0x2A, 0x2A] [0xDA, 0x0A,
      0x7C, 0x8F, 0x11, 0xF8, 0xB6, 0x0B, 0xCF, 0x9E, 0x3F, 0x05, 0x62, 0x8B, 0xEB,
      0x70] 0 16 1) State.reset) = true := by decide +kernel

/-! ## VDS unit (vectors 2.5) -/

theorem test_vdsNew :
    nextIs (exec (.vdsNew [0x78] 2 3 (some (.obj 1)) true) (twoAddrs []))
      (fun t => t.vdss == [Vds.new [0x78] 2 3 (some lugLl) true]) = true := by decide +kernel

theorem test_vdsDec_V5 :
    nextIs (exec (.vdsDec 0) (withVds (rawVds [0x78, 0x0C, 0x06, 0x78, 0x56, 0x34, 0x12, 0x1F, 0xAA, 0x00, 0x16])))
      (fun t => t.vdss.map (fun v => (v.dataRecords, v.manufacturerData, v.moreRecordsFollow)) ==
        [([recE], [0xAA], true)]) = true := by decide +kernel

theorem test_vdsDec_V18 :
    nextIs (exec (.vdsDec 0) (withVds (rawVds [0x78, 0x0C, 0x06, 0x78, 0x56, 0x34, 0x12, 0x0C, 0x06, 0x78, 0x56])))
      (fun t => t.resp == some (.exception .truncatedBuffer) &&
        t.vdss == [(rawVds [0x78, 0x0C, 0x06, 0x78, 0x56, 0x34, 0x12, 0x0C, 0x06, 0x78,
      0x56]).fail]) = true := by decide +kernel

/-! ## WFC unit (S3, vectors 2.6 and 2.7) -/

theorem test_encShort : answers (.bytes [0x10, 0x7B, 0xFD, 0x78,
      0x16]) (exec (.encShort 0x7B 0xFD) State.reset) = true := by decide +kernel

theorem test_encLong :
    answers (.bytes [0x68, 0x06, 0x06, 0x68, 0x73, 0x01, 0x51, 0x01, 0x7A, 0x05, 0x45,
      0x16]) (exec (.encLong 0x73 0x01 0x51 [0x01, 0x7A, 0x05]) State.reset) = true := by
  decide +kernel

theorem test_encLong_253 :
    refuses .payloadTooLong (exec (.encLong 0x73 0x00 0x51 (List.replicate 253 0)) State.reset) = true := by decide +kernel

theorem test_chkSum : answers (.byte 0xFD) (exec (.chkSum [0xFF, 0xFF, 0xFF]) State.reset) = true := by decide +kernel

theorem test_chkVerify_corrupted :
    answers (.bit false) (exec (.chkVerify [0x68, 0x06, 0x06, 0x68, 0x73, 0x01, 0x51, 0x01, 0x7B, 0x05, 0x45,
      0x16]) State.reset) = true := by decide +kernel

theorem test_chkVerify_length :
    answers (.bit false) (exec (.chkVerify [0x68, 0x03, 0x03, 0x68, 0x53, 0x01, 0x50, 0xA4, 0x16,
      0x00]) State.reset) = true := by decide +kernel

theorem test_decFrame_flags :
    answers (.frame (.long
        { l := 6, control := 0x08, address := 0x05, ci := 0x78, payload := [0x01, 0x7A, 0x05], checksum := 0x06,
          bytes := [0x68, 0x06, 0x06, 0x68, 0x08, 0x05, 0x78, 0x01, 0x7A, 0x05, 0x06, 0x16],
          flags := { lenOk := true, start2Ok := true, cksOk := false, stopOk := true } }) 12)
      (exec (.decFrame [0x68, 0x06, 0x06, 0x68, 0x08, 0x05, 0x78, 0x01, 0x7A, 0x05, 0x06, 0x16,
      0xAA]) State.reset) = true := by decide +kernel

theorem test_decShort :
    answers (.shortFrame { control := 0x7B, address := 0x01, checksum := 0x7D, cksOk := false, stopOk := false })
      (exec (.decShort [0x10, 0x7B, 0x01, 0x7D, 0x17]) State.reset) = true := by decide +kernel

theorem test_txFrame :
    nextIs (exec (.txFrame [0x10, 0x7B, 0x01, 0x7C, 0x16]) State.reset)
      (fun t => t.tpOut == [[0x10, 0x7B, 0x01, 0x7C, 0x16]] && t.lastTx == some [0x10, 0x7B, 0x01, 0x7C,
      0x16]) = true := by decide +kernel

theorem test_txFrame_busy : refuses .linkBusy (exec (.txFrame [0xE5]) (State.reset.setLink .awaitingResponse)) = true := by
  decide +kernel

/-- R91, R323: MBC never transmits a single-character frame. -/
theorem test_txFrame_singleCharacter : refuses .singleCharacterOnlyReceived (exec (.txFrame [0xE5]) State.reset) = true := by
  decide +kernel

theorem test_rxFrame_enforced :
    raises .malformedFrame (exec (.rxFrame 0) { wired [0x68, 0x03, 0x03, 0x68, 0x08, 0x01, 0x78, 0x82, 0x16] with
      params := { defaultParams with rxEnforceIntegrity := true } }) = true := by decide +kernel

theorem test_rxFrame_drops_echo :
    nextIs (exec (.rxFrame 0) { wired [0x68, 0x03, 0x03, 0x68, 0x53, 0x01, 0x50, 0xA4, 0x16,
      0xE5] with lastTx := some [0x68, 0x03, 0x03, 0x68, 0x53, 0x01, 0x50, 0xA4, 0x16] })
      (fun t => t.resp == some (.result (.received .singleCharacter)) && t.tpIn == []) = true := by decide +kernel

theorem test_rxFrame_never_drops_short :
    raises .unexpectedByte (exec (.rxFrame 0) { wired [0x10, 0x7B, 0x01, 0x7C, 0x16] with lastTx := some [0x10,
      0x7B, 0x01, 0x7C, 0x16] }) = true := by
  decide +kernel

theorem test_lnkRead_two_records :
    nextIs (exec (.lnkRead 0x01 0) (wired [0x68, 0x0E, 0x0E, 0x68, 0x38, 0x05, 0x78, 0x0C, 0x06, 0x78, 0x56, 0x34,
      0x12, 0x0B, 0x5A, 0x17, 0x02, 0x00, 0x59, 0x16]))
      (fun t => t.tpOut == [[0x10, 0x7B, 0x01, 0x7C,
      0x16]] && !fcbGet t.fcb 0x01 && fcbGet t.fcb 0x02 && t.link == .idle &&
        t.vdss.map (fun v => (v.ci, v.off, v.len, v.dataRecords.length)) == [(0x78, 6, 14,
      2)]) = true := by decide +kernel

theorem test_lnkRead_silent :
    nextIs (exec (.lnkRead 0x01 0) (wired []))
      (fun t => t.resp == some (.exception .noResponse) && !fcbGet t.fcb 0x01) = true := by decide +kernel

theorem test_lnkWrite :
    nextIs (exec (.lnkWrite 0x01 [0x01, 0x7A, 0x05] 0) (wired [0x68, 0x06, 0x06, 0x68, 0x73, 0x01, 0x51, 0x01,
      0x7A, 0x05, 0x45, 0x16, 0xE5]))
      (fun t => t.tpOut == [[0x68, 0x06, 0x06, 0x68, 0x73, 0x01, 0x51, 0x01, 0x7A, 0x05, 0x45,
      0x16]] && t.resp == some (.result .none) &&
        fcbGet t.fcb 0x01) = true := by decide +kernel

theorem test_lnkReset_sets_fcb :
    nextIs (exec (.lnkReset 0x01 0) { wired [0xE5] with fcb := 0 })
      (fun t => t.tpOut == [[0x10, 0x40, 0x01, 0x41, 0x16]] && t.fcb == 2) = true := by decide +kernel

theorem test_lnkReset_needs_ack :
    nextIs (exec (.lnkReset 0x01 0) { wired [0x68, 0x03, 0x03, 0x68, 0x08, 0x01, 0x78, 0x81, 0x16] with fcb := 0 })
      (fun t => t.resp == some (.exception .unexpectedResponse) && t.fcb == 0) = true := by decide +kernel

theorem test_lnkSelect :
    nextIs (exec (.lnkSelect (.obj 0) 0) (twoAddrs [0xE5]))
      (fun t => t.tpOut == [[0x68, 0x0B, 0x0B, 0x68, 0x53, 0xFD, 0x52, 0x06, 0x13, 0x99, 0x67, 0xA7, 0x32, 0x07,
      0x04, 0x9F, 0x16]]) = true := by decide +kernel

theorem test_lnkDeselect :
    nextIs (exec (.lnkDeselect (.obj 0) 0) (twoAddrs [0xE5]))
      (fun t => t.tpOut == [[0x68, 0x0B, 0x0B, 0x68, 0x53, 0xFD, 0x56, 0x06, 0x13, 0x99, 0x67, 0xA7, 0x32, 0x07,
      0x04, 0xA3, 0x16]]) = true := by decide +kernel

theorem test_lnkSelrd :
    nextIs (exec (.lnkSelrd 0x01 [0x08, 0x06] 0) (wired [0xE5])) (fun t => t.tpOut == [[0x68, 0x05, 0x05, 0x68,
      0x53, 0x01, 0x51, 0x08, 0x06, 0xB3, 0x16]]) = true := by
  decide +kernel

theorem test_lnkRstrd :
    nextIs (exec (.lnkRstrd 0x01 0) (wired [0xE5])) (fun t => t.tpOut == [[0x68, 0x03, 0x03, 0x68, 0x53, 0x01,
      0x50, 0xA4, 0x16]]) = true := by
  decide +kernel

theorem test_lnkScansel_collision :
    nextIs (exec (.lnkScansel (List.replicate 8 0xFF) 0) (wired [0x00, 0x11, 0x22]))
      (fun t => t.resp == some (.result (.bit true)) && t.tpIn == delivered [0x11, 0x22] &&
        t.tpOut == [[0x68, 0x0B, 0x0B, 0x68, 0x53, 0xFD, 0x52, 0xFF, 0xFF, 0xFF, 0xFF, 0xFF, 0xFF, 0xFF, 0xFF,
      0x9A, 0x16]]) = true := by decide +kernel

/-! ## WLC unit (S5, S6, vectors 2.8, P3) -/

theorem test_wlNew : nextIs (exec (.wlNew s5 [0x01]) wireless) (fun t => t.evts == [.onMessage 0 [0x01]]) = true := by
  decide +kernel

theorem test_wlDec_S5 :
    nextIs (exec (.wlDec 0) (withMsg s5))
      (fun t => t.msgs.map (fun m => (m.phase, m.length, m.control, m.secondaryAddress)) ==
        [(.header, 44, 0x44, some lugLl)]) = true := by decide +kernel

theorem test_wlDec_too_long : raises .wirelessLengthExceedsBuffer (exec (.wlDec 0) (withMsg (s5.take 44))) = true := by
  decide +kernel

theorem test_wlDeep_S5 :
    nextIs (exec (.wlDeep 0) (withMsg s5))
      (fun t => t.msgs.map (fun m => (m.phase, m.vds)) == [(.deep, some 0)] &&
        t.vdss.map (fun v => v.dataRecords.map (fun r => (r.description, r.multiplierExponent.toInt))) ==
          [[(.energy, 3), (.volume, -2), (.onTime, 0), (.flowTemperature, -1), (.returnTemperature, -1)]]) = true := by
  decide +kernel

/-- P3 step 7: the encrypted frame with its key. -/
theorem test_wlDeep_P3 :
    nextIs (exec (.wlDeep 0) { withMsg p3 with keymap := [([0xA7, 0x32, 0x78, 0x56, 0x34, 0x12, 0x07, 0x04], key0)] })
      (fun t => t.vdss.map (fun v => (v.encryptionMode, v.dataRecords.map (fun r => r.description))) ==
        [(.aesCbcIv, [.energy, .flowTemperature, .volume, .dateTime])]) = true := by decide +kernel

/-! ## SCAN unit (S10, vectors 2.10) -/

theorem test_scanInit :
    nextIs (exec (.scanInit "7856341fffffffff".toList) State.reset)
      (fun t => t.scanner == scanAt 6 [8, 7, 6, 5, 4, 3, 0, 1]) = true := by decide +kernel

theorem test_scanInit_bad : refuses .badMask (exec (.scanInit "78563412a7320704".toList) State.reset) = true := by
  decide +kernel

theorem test_scanStep_silent :
    nextIs (exec (.scanStep 0) (scanning 0 [0] []))
      (fun t => t.tpOut == [[0x68, 0x0B, 0x0B, 0x68, 0x53, 0xFD, 0x52, 0xF0, 0xFF, 0xFF, 0xFF, 0xFF, 0xFF, 0xFF,
      0xFF, 0x8B, 0x16]] && t.scanner == scanAt 0 [1] &&
        fcbGet t.fcb 0xFD) = true := by decide +kernel

/-- P4 step 10: both answers garbled, so the scan goes one nibble finer. -/
theorem test_scanStep_collision :
    nextIs (exec (.scanStep 0) (scanning 0 [9] [0x00, 0x00]))
      (fun t => t.scanner == scanAt 1 [9, 0] && !fcbGet t.fcb 0xFD &&
        t.tpOut.getLastD [] == [0x10, 0x7B, 0xFD, 0x78, 0x16]) = true := by decide +kernel

theorem test_scanAdv_carry_stays_at_ten :
    nextIs (exec .scanAdv (scanning 1 [9, 9] [])) (fun t => t.scanner == scanAt 0 [10]) = true := by decide +kernel

theorem test_scanAdv_second_carry :
    nextIs (exec .scanAdv (scanning 2 [9, 10, 9] [])) (fun t => t.scanner == scanAt 0 [10]) = true := by decide +kernel

theorem test_scanNarrow : nextIs (exec .scanNarrow (scanning 0 [8] [])) (fun t => t.scanner == scanAt 1 [8, 0]) = true := by
  decide +kernel

/-- A bus that never answers: 10 probes, then the carry at position 0 stops the scan. -/
theorem test_scanRun_silent :
    nextIs (exec (.scanRun "ffffffffffffffff".toList 0) State.reset)
      (fun t => t.resp == some (.result (.found [])) && t.scanner.stop && t.scanner.value.headD 0 == 10 &&
        t.tpOut.length == 10) = true := by decide +kernel

/-- An abort before the first step ends the scan with nothing sent; one during the first read, after that step (R436, R438). -/
theorem test_scanRun_aborted :
    (nextIs (exec (.scanRun (List.replicate 16 'f') 0) { State.reset with tpIn := [.abortBetween] })
      (fun t => t.resp == some (.result (.found [])) && t.tpOut == [] && !t.scanner.stop) &&
    nextIs (exec (.scanRun (List.replicate 16 'f') 0) { State.reset with tpIn := [.abort] })
      (fun t => t.resp == some (.result (.found [])) && t.tpOut.length == 1 && !t.scanner.stop)) = true := by
  decide +kernel

theorem test_scanAbort :
    (nextIs (exec .scanAbort (scanning 0 [0] [])) (fun t => t.scanner.abortReq) &&
    nextIs (exec .scanAbort State.reset) (fun t => !t.scanner.abortReq)) = true := by decide +kernel

theorem test_scanPack :
    answers (.bytes [0x78, 0x56, 0xF0, 0xFF, 0xFF, 0xFF, 0xFF, 0xFF]) (exec (.scanPack ([0x08, 0x07, 0x06, 0x05,
      0x00] ++ List.replicate 11 0x0F))
      State.reset) = true := by decide +kernel

theorem test_maskFlip :
    answers (.text "8765ffffffffffff".toList) (exec (.maskFlip "7856ffffffffffff".toList) State.reset) = true := by
  decide +kernel

/-! ## Formats, tables and bit patterns (30_encoding.md R91 to R113) -/

theorem test_fAck : answers (.frame .singleCharacter 1) (exec .fAck State.reset) = true := by decide +kernel

theorem test_fShort :
    answers (.shortFrame { control := 0x7B, address := 0x01, checksum := 0x7C, cksOk := true, stopOk := true })
      (exec (.fShort [0x10, 0x7B, 0x01, 0x7C, 0x16]) State.reset) = true := by decide +kernel

theorem test_fLong : raises .malformedFrame (exec (.fLong [0x68, 0x02, 0x02, 0x68, 0x08, 0x01, 0x09,
      0x16]) State.reset) = true := by decide +kernel

theorem test_fWl : answers (.fields (.wireless 44 0x44 lugLl 10 35)) (exec (.fWl s5) State.reset) = true := by decide +kernel

theorem test_fSaLh : answers (.fields (.address lugLh)) (exec (.fSaLh [0x06, 0x13, 0x99, 0x67, 0xA7, 0x32, 0x07,
      0x04, 0xFF]) State.reset) = true := by
  decide +kernel

theorem test_fSaLl : answers (.fields (.address lugLl)) (exec (.fSaLl [0xA7, 0x32, 0x06, 0x13, 0x99, 0x67, 0x07,
      0x04, 0xFF]) State.reset) = true := by
  decide +kernel

/-- 0x32A7: groups 12, 21, 7. -/
theorem test_fMan : answers (.fields (.letterGroups 12 21 7)) (exec (.fMan 0xA7 0x32) State.reset) = true := by decide +kernel

theorem test_fSh :
    answers (.fields (.shortHeader
        { accessNumber := 0x2A, status := 0x10, numberOfEncryptedBlocks := 2, encryptionMode := .aesCbcIv }))
      (exec (.fSh [0x2A, 0x10, 0x2F, 0xF5]) State.reset) = true := by decide +kernel

theorem test_fLh :
    answers (.fields (.longHeader lugLh
        { accessNumber := 0x2A, status := 0x10, numberOfEncryptedBlocks := 0, encryptionMode := .none }))
      (exec (.fLh [0x06, 0x13, 0x99, 0x67, 0xA7, 0x32, 0x07, 0x04, 0x2A, 0x10, 0x00,
      0x20]) State.reset) = true := by decide +kernel

theorem test_fDib :
    answers (.fields (.dib
        { dib := [0xCC, 0xC1, 0x01], code := 12, functionField := .instVal, storageNumber := 35, tariff := 0,
          subunit := 1 }))
      (exec (.fDib [0xCC, 0xC1, 0x01, 0x06]) State.reset) = true := by decide +kernel

theorem test_fVib :
    answers (.fields (.vib [0x06] (vifRow .energy .wattHour 3 .numeric))) (exec (.fVib [0x06,
      0x99]) State.reset) = true := by
  decide +kernel

theorem test_fVib_extended : raises .unrecognisedDifVif (exec (.fVib [0x86,
      0x00]) State.reset) = true := by decide +kernel

theorem test_fData_negative :
    answers (.fields (.data (.long (BitVec.ofInt 64 (-8388608))) 3)) (exec (.fData 3 .numeric [0x00, 0x00,
      0x80]) State.reset) = true := by
  decide +kernel

theorem test_fData_date :
    answers (.fields (.data (.dateG { day := 1, month := 9, year := 1 }) 2)) (exec (.fData 2 .date [0x21,
      0x09]) State.reset) = true := by
  decide +kernel

/-- 95_test_vectors.md: DATE hint on a code other than 2 and 4; R120 gives the same for a string and for no data. -/
theorem test_fData_dateHint :
    [0x0, 0x8, 0xA, 0xD].all (fun code => raises .unrecognisedDifVif (exec (.fData code .date [0x01,
      0x41]) State.reset)) = true := by decide +kernel

theorem test_lvar : answers (.fields (.data (.string ['A', 'B', 'C']) 4)) (exec (.lvar [0x03, 0x43, 0x42,
      0x41]) State.reset) = true := by
  decide +kernel

theorem test_special :
    (answers (.fields (.special (.marker true))) (exec (.special 0x1F) State.reset) &&
    answers (.fields (.special .dif)) (exec (.special 0x3F) State.reset)) = true := by decide +kernel

theorem test_fBcd : answers (.fields (.bcd bcdNeg)) (exec (.fBcd [0x78, 0x56, 0x34,
      0xF2]) State.reset) = true := by decide +kernel

theorem test_fIv :
    answers (.bytes [0xA7, 0x32, 0x06, 0x13, 0x99, 0x67, 0x07, 0x04, 0x2A, 0x2A, 0x2A, 0x2A, 0x2A, 0x2A, 0x2A, 0x2A])
      (exec (.fIv [0xA7, 0x32, 0x06, 0x13, 0x99, 0x67, 0x07, 0x04] 0x2A) State.reset) = true := by decide +kernel

theorem test_fWild :
    answers (.bytes [0xFA, 0xFF, 0xFF, 0xFF, 0xFF, 0xFF, 0xFF,
      0xFF]) (exec (.fWild (0x0A :: List.replicate 15 0x0F)) State.reset) = true := by
  decide +kernel

theorem test_cField : answers (.fields (.control [.sndUdSelect])) (exec (.cField 0x53) State.reset) = true := by decide +kernel

theorem test_rspUdTest :
    (answers (.bit true) (exec (.rspUdTest 0x38) State.reset) && answers (.bit false) (exec (.rspUdTest 0x48) State.reset)) = true := by
  decide +kernel

theorem test_reqUd2 : answers (.byte 0x7B) (exec (.reqUd2 true) State.reset) = true := by decide +kernel

theorem test_aField : answers (.fields (.addressField true)) (exec (.aField 0xFD) State.reset) = true := by decide +kernel

theorem test_ciField :
    (answers (.fields (.ci none .manufacturerSpecific)) (exec (.ciField 0xB7) State.reset) &&
    answers (.fields (.ci (some .deselect) .unsupported)) (exec (.ciField 0x56) State.reset)) = true := by decide +kernel

theorem test_leadByte : raises .unexpectedByte (exec (.leadByte 0x10) State.reset) = true := by decide +kernel

/-! ## Concrete cases of the statements' hypotheses -/

/-- The outcome is exactly the next state `t`. -/
def nextEq (o : Out) (t : State) : Bool := nextIs o (fun u => u == t)

theorem eq_next {o : Out} {t : State} (h : nextEq o t = true) : o = .next t := by
  cases o with
  | next u => rw [show u = t by simpa [nextEq, nextIs] using h]
  | fault _ => cases h
  | refused _ => cases h

theorem some_next {o : Out} (h : nextIs o (fun _ => true) = true) : ∃ t, o = .next t := by
  cases o with
  | next t => exact ⟨t, rfl⟩
  | fault _ => cases h
  | refused _ => cases h

theorem eq_refused {o : Out} {r : Refusal} (h : refuses r o = true) : o = .refused r := by
  cases o with
  | next _ => cases h
  | fault _ => cases h
  | refused x => rw [show x = r by simpa [refuses] using h]

/-- The decoder answers a value. -/
def isOk {α : Type} (r : Dec α) : Bool :=
  match r with
  | .ok _ => true
  | .error _ => false

theorem some_ok {α : Type} {r : Dec α} (h : isOk r = true) : ∃ a, r = .ok a := by
  cases r with
  | ok a => exact ⟨a, rfl⟩
  | error _ => cases h

/-- The decoder raises `c`. -/
def isError {α : Type} (c : Cause) (r : Dec α) : Bool :=
  match r with
  | .ok _ => false
  | .error x => x == c

theorem eq_error {α : Type} {r : Dec α} {c : Cause} (h : isError c r = true) : r = .error c := by
  cases r with
  | ok a => cases h
  | error x => rw [show x = c by simpa [isError] using h]

/-! ### Requests and the step -/

/-- DecodingUndoesEncoding: well-formed at the edge of `wf`, and bytes with more after them that decode. -/
theorem witness_decodingUndoesEncoding :
    (Instr.fData 0x0F .date [0x01]).wf = true ∧ (Instr.bcdEnc (-1) 1).wf = true ∧
    decode [0x8A, 0x0F, 0x01, 0x01, 0x01, 0x77] = .ok (.fData 0x0F .date [0x01], [0x77]) := ⟨by decide +kernel,
      by decide +kernel, rfl⟩

/-- StepRunsTheDecodedRequest: an input of each kind, and none. -/
theorem witness_stepRunsTheDecodedRequest :
    decode [0x04, 0xFD] = .ok (.fcbGet 0xFD, []) ∧ (Instr.fcbGet 0xFD).wf = true ∧
    decode [0x05] = .error (.unknownCode 0x05) ∧
    (∀ x ∈ [Input.request [0x04, 0xFD], .request [0x05], .wlDeliver s5 [0x01], .wlDiscarded [0x09],
      .wlStopped [0x09]],
      ∀ k ∈ [SessionKind.wired, .wireless], ∃ s : State, s.kind = k ∧ s.inp = x :: [.wlStopped []]) ∧
    State.reset.inp = [] :=
  ⟨rfl, by decide +kernel, rfl,
    fun x _ k _ => ⟨{ State.reset with kind := k, inp := x :: [.wlStopped []] }, rfl, rfl⟩, rfl⟩

/-! ### Invariants -/

/-- A state in the middle of a scan, with a key, a device found, an object of every kind and a request waiting. -/
def busy (i : Instr) : State :=
  { wired [0xE5] with
    keymap := [(lugLh.raw, key0), (lugLl.raw, key0)], scanner := { scanAt 1 [9, 9] with found := [lugLh] },
    bcds := [bcdNeg], addrs := [lugLh, lugLl], recs := [recE], inp := [.request (encode i)],
    vdss := [{ rawVds [0x78] with llAddr := some lugLl }, { rawVds [0x78] with phase := .decoded }],
    msgs := [{ WlMessage.new s5 [0x01] with secondaryAddress := some lugLl }] }

/-- EveryStepKeepsTheInvariant. -/
theorem witness_everyStepKeepsTheInvariant : (busy .scanAdv).Inv ∧ ∃ t, step (busy .scanAdv) = .next t := by
  refine ⟨⟨by decide +kernel, by decide +kernel, fun _ h => (nomatch h), ?_, ?_⟩, some_next (by decide +kernel)⟩
  · unfold Scanner.shaped; decide +kernel
  · unfold Scanner.distinct; decide +kernel

/-- ScannerNibblesStayDecided: a scan at a carry, and the two operations that start one. -/
theorem witness_scannerNibblesStayDecided :
    (busy .scanAdv).params.scanInitZero = true ∧ (busy .scanAdv).scanner.decided ∧
    (∃ t, exec .scanAdv (busy .scanAdv) = .next t) ∧
    (∃ t, exec (.scanInit "78563412ffffffff".toList) (busy .scanAdv) = .next t) ∧
    (∃ t, exec (.scanRun "ffffffffffffffff".toList 0) (busy .scanAdv) = .next t) := by
  refine ⟨by decide +kernel, ?_, some_next (by decide +kernel), some_next (by decide +kernel), some_next (by decide +kernel)⟩
  unfold Scanner.decided Scanner.shaped; decide +kernel

/-- LinkIsIdleAfterEveryLinkOperation: a next state, a busy link, a session without a transport. -/
theorem witness_linkIsIdle :
    looksAtLink (.lnkReset 0x01 0) = true ∧ (∃ t, exec (.lnkReset 0x01 0) (wired [0xE5]) = .next t) ∧
    (∃ s : State, s.kind = .wired ∧ s.link = .awaitingResponse) ∧ wireless.kind = .wireless :=
  ⟨rfl, some_next (by decide +kernel), ⟨State.reset.setLink .awaitingResponse, rfl, rfl⟩, rfl⟩

/-- EveryStepKeepsAddressesWhole: addresses in every place, and a step that adds one. -/
theorem witness_everyStepKeepsAddressesWhole :
    ((∀ a ∈ (busy (.saLh lugLh.raw 0)).addresses, a.whole) ∧ ∀ e ∈ (busy (.saLh lugLh.raw 0)).keymap, e.1.length = 8) ∧
    ∃ t, step (busy (.saLh lugLh.raw 0)) = .next t := by
  refine ⟨?_, some_next (by decide +kernel)⟩
  unfold SecondaryAddress.whole; decide +kernel

/-- TablesHaveNoOtherWriters, EveryOperationAnswers, OnlyFramesOfTheTableAreSent, TransportIsReadForwardOnly: a writer of
either table, an operation that writes none, one that transmits, TX.FRAME and a scan. -/
theorem witness_exec_next :
    (∀ i ∈ [Instr.lnkRead 0x01 0, .lnkReset 0x01 0, .scanStep 0, .scanRun "ffffffffffffffff".toList 0,
      .keyDel (.obj 0),
            .chkSum [0x01], .txFrame [0x01], .rxFrame 0],
      ∃ t, exec i (busy i) = .next t) ∧
    writesFcb (.chkSum [0x01]) = false ∧ writesKeymap (.chkSum [0x01]) = false ∧ transmits (.chkSum [0x01]) = false := by
  refine ⟨?_, rfl, rfl, rfl⟩
  intro i hi
  have h : nextIs (exec i (busy i)) (fun _ => true) = true := by revert i; decide +kernel
  exact some_next h

/-- TablesSurviveEveryFailure, OperationsFailOnlyAsTheTableSays: an exception of an operation that writes no table, of
LNK.READ, and of AES.DECRYPT with a window one byte too long and with one block too many. -/
theorem witness_exec_exception :
    (∃ t, exec (.bcdDec [0x1A]) (busy .fAck) = .next t ∧ t.resp = some (.exception .bcdInvalidNibble)) ∧
    (∃ t, exec (.lnkRead 0x01 0) (busy .fAck) = .next t ∧ t.resp = some (.exception .unexpectedResponse)) ∧
    (∃ t, exec (.aesDecrypt key0 key0 key0 1 16 1) State.reset = .next t ∧ t.resp = some (.exception .truncatedBuffer)) ∧
    (∃ t, exec (.aesDecrypt key0 key0 key0 0 16 2) State.reset = .next t ∧
      t.resp = some (.exception .blockCountExceedsPayload)) :=
  ⟨next_raises (by decide +kernel), next_raises (by decide +kernel), next_raises (by decide +kernel),
    next_raises (by decide +kernel)⟩

/-- OnlyFramesOfTheTableAreSent: whole addresses and a well-formed request that transmits. -/
theorem witness_onlyFramesOfTheTable :
    (∀ a ∈ (busy .fAck).addresses, a.whole) ∧ (Instr.lnkScansel lugLh.raw 0).wf = true ∧
    transmits (.lnkSelect (.found 0) 0) = true ∧ (∃ t, exec (.lnkSelect (.found 0) 0) (busy .fAck) = .next t) ∧
    ∃ t, exec (.lnkScansel lugLh.raw 0) (busy .fAck) = .next t := by
  refine ⟨?_, by decide +kernel, rfl, some_next (by decide +kernel), some_next (by decide +kernel)⟩
  unfold SecondaryAddress.whole; decide +kernel

/-- ObjectsAreImmutable: objects of every kind there, one VDS decoded, and an operation that makes a message Header. -/
theorem witness_objectsAreImmutable :
    (∃ t, exec (.wlDec 0) (busy .fAck) = .next t) ∧ (busy .fAck).bcds[0]? = some bcdNeg ∧
    (busy .fAck).addrs[1]? = some lugLl ∧ (busy .fAck).recs[0]? = some recE ∧
    (∃ v, (busy .fAck).vdss[1]? = some v ∧ v.phase ≠ .raw) ∧ (∃ m, (busy .fAck).msgs[0]? = some m) :=
  ⟨some_next (by decide +kernel), rfl, rfl, rfl, ⟨_, rfl, by decide +kernel⟩, ⟨_, rfl⟩⟩

/-! ### Keys -/

/-- KeysAreAddedAndRemoved: a key map with the address and without it, keys of 16, 15 and 17 bytes. -/
theorem witness_keysAreAddedAndRemoved :
    KeyMap.wf (busy .fAck).keymap = true ∧ saAt (busy .fAck) (.obj 1) = .ok lugLl ∧ key0.length = 16 ∧
    (key0.drop 1).length ≠ 16 ∧ (0x00 :: key0).length ≠ 16 ∧ KeyMap.wf (twoAddrs []).keymap = true ∧
    saAt (twoAddrs []) (.obj 1) = .ok lugLl ∧ KeyMap.get (twoAddrs []).keymap lugLl.raw = none :=
  ⟨by decide +kernel, rfl, rfl, by decide +kernel, by decide +kernel, rfl, rfl, rfl⟩

/-- KeyGetAndFcbGetRead: both operand forms, KEY.ADD, and both kinds of session. -/
theorem witness_keyGetAndFcbGetRead :
    rawAt (busy .fAck) (.sa (.found 0)) = .ok lugLh.raw ∧ rawAt State.reset (.raw lugLl.raw) = .ok lugLl.raw ∧
    saAt (twoAddrs []) (.obj 0) = .ok lugLh ∧ (∃ t, exec (.keyAdd (.obj 0) key0) (twoAddrs []) = .next t) ∧
    State.reset.kind = .wired ∧ wireless.kind = .wireless :=
  ⟨rfl, rfl, rfl, some_next (by decide +kernel), rfl, rfl⟩

/-! ### BCD and SA units -/

/-- BcdDecReadsPackedDecimals: the sentinel, the greatest digit, and nibbles just above it. -/
theorem witness_bcdDec :
    PackedDecimal [0x99, 0xF9] ∧ PackedDecimal [0x00] ∧ ¬PackedDecimal [0xF9,
      0x99] ∧ ¬PackedDecimal [0x0A] ∧ ¬PackedDecimal [0xA0] := by
  unfold PackedDecimal; decide +kernel

/-- BcdValuesAreExact: the last value inside and the first value outside each of the four bounds. -/
theorem witness_bcdValues :
    (∀ b : Bcd, bcdAt { State.reset with bcds := [b] } (.obj 0) = .ok b) ∧
    ∀ e ∈ [(false, [7, 4, 6, 3, 8, 4, 7, 4, 1, 2], (2147483647 : Int)),
           (false, [8, 4, 6, 3, 8, 4, 7, 4, 1, 2], 2147483648),
           (true, [8, 4, 6, 3, 8, 4, 7, 4, 1, 2], -2147483648),
           (true, [9, 4, 6, 3, 8, 4, 7, 4, 1, 2], -2147483649),
           (false, [7, 0, 8, 5, 7, 7, 4, 5, 8, 6, 3, 0, 2, 7, 3, 3, 2, 2, 9], 9223372036854775807),
           (false, [8, 0, 8, 5, 7, 7, 4, 5, 8, 6, 3, 0, 2, 7, 3, 3, 2, 2, 9], 9223372036854775808),
           (true, [8, 0, 8, 5, 7, 7, 4, 5, 8, 6, 3, 0, 2, 7, 3, 3, 2, 2, 9], -9223372036854775808),
           (true, [9, 0, 8, 5, 7, 7, 4, 5, 8, 6, 3, 0, 2, 7, 3, 3, 2, 2, 9], -9223372036854775809)],
      e.2.2 = (if e.1 then -1 else 1) * ((List.range e.2.1.length).map (fun j => e.2.1.getD j 0 * 10 ^ j)).sum :=
  ⟨fun _ => rfl, by decide +kernel⟩

/-- BcdEncIsTheInverseOfBcdDec: 99, -9, 100 and -10 in one byte. -/
theorem witness_bcdEnc :
    (0 ≤ (99 : Int) ∧ (99 : Int) < 10 ^ (2 * 1)) ∧ ((-9 : Int) < 0 ∧ -(-9 : Int) < 10 ^ (2 * 1 - 1)) ∧
    (10 ^ (2 * 1) ≤ (100 : Int)) ∧ (10 ^ (2 * 1 - 1) ≤ -(-10 : Int)) := by decide +kernel

/-- ManDecIsTotal, ManEncPacksThreeLetters: the first and the last letter, the characters next to them, other lengths. -/
theorem witness_manufacturer :
    UpperCase 'A' ∧ UpperCase 'Z' ∧ ¬UpperCase '@' ∧ ¬UpperCase '[' ∧
    exec (.manEnc ['A', 'Z', 'A']) State.reset = .next (State.reset.respond (.bytes [0x41, 0x07])) ∧
    ['A', 'B'].length ≠ 3 ∧ (['A', '[', 'A'].length = 3 ∧ ∃ c ∈ ['A', '[', 'A'], ¬UpperCase c) := by
  refine ⟨?_, ?_, ?_, ?_, eq_next (by decide +kernel), by decide, rfl, '[', by decide, ?_⟩ <;> unfold UpperCase <;> decide

/-- AddressesAreReadInTheirOrder: a negative device id, one that is no decimal, and 7 bytes left of the buffer. -/
theorem witness_addresses :
    ([0x78, 0x56, 0x34, 0xF2] : Bytes).length = 4 ∧ PackedDecimal [0x78, 0x56, 0x34, 0xF2] ∧ ¬PackedDecimal [0x78,
      0xF6, 0x34, 0x12] ∧
    ([0x78, 0x56, 0x34, 0x12, 0xA7, 0x32, 0x07] : Bytes).length < 0 + 8 := by
  unfold PackedDecimal; decide +kernel

/-- AddressesCompareByRawBytes: two addresses of 8 bytes that differ, and one with itself; a message in phase Raw. -/
theorem witness_compare :
    ([WlMessage.new s5 [0x01]][0]? = some (WlMessage.new s5 [0x01]) ∧ (WlMessage.new s5 [0x01]).secondaryAddress = none) ∧
    saAt (twoAddrs []) (.obj 0) = .ok lugLh ∧ saAt (twoAddrs []) (.obj 1) = .ok lugLl ∧
    lugLh.raw.length = lugLl.raw.length ∧ lugLh.raw ≠ lugLl.raw := ⟨⟨rfl, rfl⟩, rfl, rfl, rfl, by decide +kernel⟩

/-- SaBuildMakesTheAddress: the device ids next to both bounds, manufacturers that encode and one that is refused. -/
theorem witness_saBuild :
    ((-10000000 : Int) < -9999999 ∧ (99999999 : Int) < 100000000 ∧ (-10000000 : Int) ≤ -10000000) ∧
    (∀ c ∈ ['L', 'U', 'G'], UpperCase c) ∧ ['L', 'U'].length ≠ 3 ∧ ['L', 'U', 'g'].length = 3 ∧
    ∃ c ∈ ['L', 'U', 'g'], ¬UpperCase c := by
  refine ⟨by decide, ?_, by decide, rfl, 'g', by simp, by unfold UpperCase; decide⟩
  simp only [List.forall_mem_cons]
  refine ⟨?_, ?_, ?_, by simp⟩ <;> unfold UpperCase <;> decide

/-! ### DR unit -/

/-- DrDecReadsARecord: a data field of each kind that is read and one that is not, the three ways to run out, a VIB not in the
table. -/
theorem witness_drDec :
    (Chained [0x8C, 0x01] ∧ Chained [0x06] ∧ Chained [0x86, 0x00]) ∧
    (State.reset.params.viftab.find? (fun x => x.1 == [0x06]) = some ([0x06], vifRow .energy .wattHour 3 .numeric)) ∧
    (DataField ((byteAt [0x8C, 0x01] 0).toNat % 16) .numeric [0x78, 0x56, 0x34,
      0x12] 4 ∧ DataField 0x8 .numeric [] 0 ∧
      DataField 0x5 .numeric [0x00, 0x00, 0x80, 0x3F, 0x00] 4 ∧ DataField 0xD .numeric [0x01,
      0x41] 2 ∧ DataField 0x4 .date [0x1E, 0x0A, 0x21, 0x09] 4 ∧
      ¬DataField 0xC .numeric [0x78, 0x56, 0x34] 4 ∧ ¬DataField 0xD .date [0x01, 0x41] 2) ∧
    exec (.fData ((byteAt [0x8C, 0x01] 0) &&& 0x0F#8) .numeric [0x78, 0x56, 0x34]) State.reset =
      .next (State.reset.raise .truncatedBuffer) ∧
    (([0x0C, 0x06] : Bytes).length < 1 + 2) ∧ (∀ k, 0 ≤ k → k < 0 + 2 → 128 ≤ (byteAt [0x8C, 0x86, 0x00] k).toNat) ∧
    (∀ e ∈ State.reset.params.viftab, e.1 ≠ [0x86, 0x00]) := by
  refine ⟨by simp [Chained], by decide +kernel, ⟨?_, ?_, ?_, ?_, ?_, ?_, ?_⟩, eq_next (by decide +kernel), by decide, by decide +kernel,
    by decide +kernel⟩ <;>
    unfold DataField PackedDecimal <;> decide +kernel

/-- DataFieldsByCode: a code of each kind with its bytes, strings of 0 and of 191 characters, LVAR `C0`, a string, an
integer, a float and a date cut by one byte. -/
theorem witness_dataFields :
    ((0x1#8, 1) ∈ [(0x1#8, 1), (0x2#8, 2), (0x3#8, 3), (0x4#8, 4), (0x6#8, 6), (0x7#8, 8)]) ∧
    ((0x7#8, 8) ∈ [(0x1#8, 1), (0x2#8, 2), (0x3#8, 3), (0x4#8, 4), (0x6#8, 6), (0x7#8, 8)]) ∧
    ((0xE#8, 6) ∈ [(0x9#8, 1), (0xA#8, 2), (0xB#8, 3), (0xC#8, 4), (0xE#8, 6)]) ∧
    PackedDecimal [0x78, 0x56, 0x34, 0xF2] ∧ ¬PackedDecimal [0x78, 0x56, 0x34, 0xA2] ∧
    ((0x5#8, 4) ∈ [(0x4#8, 4), (0x5#8, 4), (0x6#8, 6)] ∧ ([0x00, 0x00,
      0x80] : Bytes).length < 4 ∧ ([] : Bytes).length < 1 ∧
      (0x2#8, 2) ∈ [(0x2#8, 2), (0x4#8, 4)] ∧ ([0x21] : Bytes).length < 2) ∧
    ((0x00#8).toNat = ([] : Bytes).length ∧ (0xBF#8).toNat = (List.replicate 191 0x41#8).length ∧
      (0xBF#8).toNat < 0xC0 ∧ 0xC0 ≤ (0xC0#8).toNat ∧ ([0x41, 0x42] : Bytes).length < (0x03#8).toNat) := by
  unfold PackedDecimal; decide +kernel

/-- FloatsWidenExactly: the greatest finite value, the least subnormal, an infinity and a NaN. -/
theorem witness_floats :
    (0x7F7FFFFF#32).toNat / 2 ^ 23 % 256 ≠ 255 ∧ (0x80000001#32).toNat / 2 ^ 23 % 256 ≠ 255 ∧
    ((0xFF800000#32).toNat / 2 ^ 23 % 256 = 255 ∧ (0xFF800000#32).toNat % 2 ^ 23 = 0) ∧
    ((0x7FC00000#32).toNat / 2 ^ 23 % 256 = 255 ∧ (0x7FC00000#32).toNat % 2 ^ 23 ≠ 0) := by decide +kernel

/-- DrScaleIsExact: every kind of value, the BCD values at and just outside 64 bits, a finite and an infinite DOUBLE. -/
theorem witness_drScale :
    (∀ r : DataRecord, recAt { State.reset with recs := [r] } (.obj 0) = .ok r) ∧
    (∀ v : DataValue, (recOf v).dataValue = v) ∧
    (∀ e ∈ [(false, [7, 0, 8, 5, 7, 7, 4, 5, 8, 6, 3, 0, 2, 7, 3, 3, 2, 2, 9]),
            (true, [8, 0, 8, 5, 7, 7, 4, 5, 8, 6, 3, 0, 2, 7, 3, 3, 2, 2, 9])],
      (-2 ^ 63 ≤ bcdValue { bytes := [], negative := e.1, digits := e.2 } ∧
        bcdValue { bytes := [], negative := e.1, digits := e.2 } < 2 ^ 63)) ∧
    (∀ e ∈ [(false, [8, 0, 8, 5, 7, 7, 4, 5, 8, 6, 3, 0, 2, 7, 3, 3, 2, 2, 9]),
            (true, [9, 0, 8, 5, 7, 7, 4, 5, 8, 6, 3, 0, 2, 7, 3, 3, 2, 2, 9])],
      (bcdValue { bytes := [], negative := e.1, digits := e.2 } < -2 ^ 63 ∨
        2 ^ 63 ≤ bcdValue { bytes := [], negative := e.1, digits := e.2 })) ∧
    (0x7FEFFFFFFFFFFFFF#64).toNat / 2 ^ 52 % 2048 ≠ 2047 ∧ (0x7FF0000000000000#64).toNat / 2 ^ 52 % 2048 = 2047 :=
  ⟨fun _ => rfl, fun _ => rfl, by decide +kernel, by decide +kernel, by decide +kernel, by decide +kernel⟩

/-! ### AES and VDS units -/

/-- AesDecryptMirrorsAesEncrypt, AesDecryptChainsBlocks: no block, two blocks, one block too many, a window one byte too long,
other lengths. -/
theorem witness_aes :
    key0.length = 16 ∧ ([] : Bytes).length % 16 = 0 ∧ (key0 ++ key0).length = 16 * 2 ∧ (key0.drop 1).length ≠ 16 ∧
    (0 + 16 ≤ key0.length ∧ 16 < 2 * 16) ∧ key0.length < 1 + 16 ∧ (0x00 :: key0).length % 16 ≠ 0 := by decide +kernel

/-- VdsNewStoresItsOperands: without an address, with one, and with that of a decoded VDS that has none. -/
theorem witness_vdsNew :
    (none : Option SecondaryAddress) = none ∧ (∃ a, some lugLl = some a ∧ saAt (twoAddrs []) (.obj 1) = .ok a) ∧
    ∃ w, (busy .fAck).vdss[1]? = some w ∧ w.phase = .decoded ∧ none = w.secondaryAddress :=
  ⟨rfl, ⟨_, rfl, rfl⟩, _, rfl, rfl, rfl⟩

/-- The records rec E and a tail, as the windows below end. -/
def recsE : Bytes := [0x0C, 0x06, 0x78, 0x56, 0x34, 0x12, 0x00, 0x16]

/-- A long header over them, one byte before and one after. -/
def longBuf (c1 : Byte) : Bytes := [0xAA] ++ 0x72#8 :: lugLh.raw ++ [0x2A#8, 0x10#8, 0x30#8, c1] ++ recsE ++ [0xBB]

/-- VdsLongAndNoHeader: the modes 0, 5 and 1 under CI `72`, and CI `78`. -/
theorem witness_vdsLongAndNoHeader :
    (∀ c1 ∈ [0x00#8, 0x05#8, 0x01#8], ∃ v : Vds,
      (withVds v).vdss[0]? = some v ∧ v.phase = .raw ∧ v.off = ([0xAA] : Bytes).length ∧
      v.buf = longBuf c1 ∧ v.len = 13 + recsE.length) ∧
    exec (.saLh lugLh.raw 0) (withVds (rawVds [])) =
      .next (((withVds (rawVds [])).addAddr lugLh).respond (.address 0)) ∧
    lugLh.raw.length = 8 ∧ (∃ l, readRecords State.reset.params recsE = .ok l) ∧
    (∃ v : Vds, v.phase = .raw ∧ v.buf = [0xAA] ++ 0x78#8 :: recsE ++ [0xBB] ∧ v.off = 1 ∧ v.len = 1 + recsE.length) := by
  refine ⟨fun c1 _ => ⟨Vds.new (longBuf c1) 1 21 none false, rfl, rfl, rfl, rfl, rfl⟩, eq_next (by decide +kernel), rfl,
    some_ok (by decide +kernel), ⟨Vds.new ([0xAA] ++ 0x78#8 :: recsE ++ [0xBB]) 1 9 none false, rfl, rfl, rfl, rfl⟩⟩

/-- A VDS under CI `7A` over `w`, one byte before and one after. -/
def shortVds (c0 c1 : Byte) (w : Bytes) (ll : Option SecondaryAddress) (keys : Bool) : Vds :=
  Vds.new ([0xAA] ++ [0x7A#8, 0x2A#8, 0x00#8, c0, c1] ++ w ++ [0xBB]) 1 (5 + w.length) ll keys

/-- The ciphertext of P3 and its plaintext. -/
def p3Cipher : Bytes := (p3.drop 15)

/-- The address of P3's device. -/
def p3Addr : SecondaryAddress :=
  { lugLl with
    deviceId := { bytes := [0x78, 0x56, 0x34, 0x12], negative := false, digits := [8, 7, 6, 5, 4, 3, 2, 1] }
    raw := [0xA7, 0x32, 0x78, 0x56, 0x34, 0x12, 0x07, 0x04] }

/-- VdsShortHeader: the object, for the modes 0, 5 and 15, with and without address and keys. -/
theorem witness_vdsShortHeader_object :
    ∀ (c0 c1 : Byte) (w : Bytes) (ll : Option SecondaryAddress) (keys : Bool), ∀ v, v = shortVds c0 c1 w ll keys →
      (withVds v).vdss[0]? = some v ∧ v.phase = .raw ∧ v.off = ([0xAA] : Bytes).length ∧ v.len = 5 + w.length ∧
      v.buf = [0xAA] ++ [0x7A#8, 0x2A#8, 0x00#8, c0, c1] ++ w ++ [0xBB] ∧ v.llAddr = ll ∧ v.keys = keys := by
  rintro c0 c1 w ll keys v rfl
  exact ⟨rfl, rfl, rfl, rfl, rfl, rfl, rfl⟩

/-- VdsShortHeader: what the modes, the key map and the blocks must be, clause by clause; the last two are P3 with its key
and with a wrong one. -/
theorem witness_vdsShortHeader :
    ((0x20#8).toNat % 16 = 0 ∧ (0x0F#8).toNat % 16 ≠ 0 ∧ (0x0F#8).toNat % 16 ≠ 5 ∧ (0xF5#8).toNat % 16 = 5) ∧
    KeyMap.get [(p3Addr.raw, key0)] p3Addr.raw = some key0 ∧ KeyMap.get [] p3Addr.raw = none ∧ p3Addr.raw.length = 8 ∧
    (p3Cipher.drop 1).length < 16 * ((0x20#8).toNat / 16) ∧ (0x0F#8).toNat / 16 = 0 ∧
    (∃ l, readRecords State.reset.params recsE = .ok l) ∧
    (∃ m, exec (.aesDecrypt key0 (p3Addr.raw ++ List.replicate 8 0x2A) p3Cipher 0 p3Cipher.length ((0x20#8).toNat / 16))
        State.reset = .next (State.reset.respond (.bytes m)) ∧ m.take 2 = [0x2F#8, 0x2F#8] ∧
      ∃ l, readRecords State.reset.params m = .ok l) ∧
    (∃ m, exec (.aesDecrypt (List.replicate 16 0) (p3Addr.raw ++ List.replicate 8 0x2A) p3Cipher 0 p3Cipher.length
        ((0x20#8).toNat / 16)) State.reset = .next (State.reset.respond (.bytes m)) ∧ m.take 2 ≠ [0x2F#8,
      0x2F#8]) := by
  refine ⟨by decide +kernel, by decide +kernel, rfl, rfl, by decide +kernel, by decide +kernel, some_ok (by decide +kernel),
    ⟨[0x2F, 0x2F, 0x0C, 0x06, 0x78, 0x56, 0x34, 0x12, 0x0B, 0x5A, 0x17, 0x02, 0x00, 0x0C, 0x14, 0x27, 0x04, 0x85,
      0x02, 0x04, 0x6D, 0x1E, 0x0F, 0x3F, 0x1C, 0x2F, 0x2F, 0x2F, 0x2F, 0x2F, 0x2F, 0x2F],
      eq_next (by decide +kernel), rfl,
      some_ok (by decide +kernel)⟩,
    ⟨cbcDecrypt (List.replicate 16 0) 2 (p3Addr.raw ++ List.replicate 8 0x2A) p3Cipher, eq_next (by decide +kernel),
      by decide +kernel⟩⟩

/-- OtherCiValuesFail: the first and last manufacturer value and the values next to them. -/
theorem witness_otherCi :
    ∀ ci ∈ [0xA0#8, 0xB7#8, 0x9F#8, 0xB8#8], (∃ v : Vds, (withVds v).vdss[0]? = some v ∧ v.phase = .raw ∧
        v.buf = [0xAA] ++ ci :: [0x01] ++ [0xBB] ∧ v.off = ([0xAA] : Bytes).length ∧ v.len = 1 + ([0x01] : Bytes).length) ∧
      ((0xA0 ≤ ci.toNat ∧ ci.toNat ≤ 0xB7) ∨
        (ci ≠ 0x72#8 ∧ ci ≠ 0x78#8 ∧ ci ≠ 0x7A#8 ∧ (ci.toNat < 0xA0 ∨ 0xB7 < ci.toNat))) := by
  intro ci hci
  refine ⟨⟨Vds.new ([0xAA] ++ ci :: [0x01] ++ [0xBB]) 1 2 none false, rfl, rfl, rfl, rfl, rfl⟩, ?_⟩
  revert ci; decide +kernel

/-- VdsDecIsAllOrNothing, VdsDecRunsOnceAndNeedsNoKeyForPlainData: a VDS that decodes under CI `78`, one under CI `7A` in
the clear, one that fails, one decoded before. -/
theorem witness_vdsDec :
    (withVds (rawVds (0x78#8 :: recsE))).vdss[0]? = some (rawVds (0x78#8 :: recsE)) ∧
    (rawVds (0x78#8 :: recsE)).phase = .raw ∧
    (∃ t, vdsBody State.reset.params [] (rawVds (0x78#8 :: recsE)) = .ok t) ∧
    vdsBody State.reset.params [] (rawVds [0xB7]) = .error .manufacturerSpecificCI ∧
    (rawVds [0x78]).fail.phase ≠ .raw ∧
    (∀ x ∈ [0x78#8 :: recsE, [0x7A#8, 0x2A#8, 0x00#8, 0x30#8, 0x00#8] ++ recsE],
      nextIs (exec (.vdsDec 0) (withVds (rawVds x)))
        (fun t => t.resp == some (.result (.vds 0)) &&
          t.vdss.all (fun v => v.ci != 0x7A#8 || v.encryptionMode != .aesCbcIv)) = true) := by
  refine ⟨rfl, rfl, some_ok (by decide +kernel), eq_error (by decide +kernel), by decide +kernel, by decide +kernel⟩

/-- RecordLoopTurns: the fewest bytes of another turn, a byte of each kind, a record read and one cut, and what follows
a record decoding or not. -/
theorem witness_recordLoopTurns :
    (State.reset.params.vdsTail + State.reset.params.vdsMinBeforeTail ≤ ([0x06, 0x05, 0x16] : Bytes).length + 1) ∧
    exec (.drDec (0x0C#8 :: [0x06, 0x00, 0x16]) 0 (3 + 1)) State.reset = .next (State.reset.raise .truncatedBuffer) ∧
    exec (.drDec (0x01#8 :: [0x06, 0x05, 0x16]) 0 (3 + 1)) State.reset = .next ((State.reset.addRec
      { recOf (.long 5) with dib := [0x01] }).respond (.record 0 3)) ∧
    (∃ l, readRecords State.reset.params ((0x01#8 :: [0x06, 0x05, 0x16]).drop 3) = .ok l) ∧
    exec (.drDec (0x0C#8 :: [0x06, 0x78, 0x56, 0x34, 0x12, 0x0C, 0x06, 0x78, 0x56]) 0 (9 + 1)) State.reset =
      .next ((State.reset.addRec recE).respond (.record 0 6)) ∧
    readRecords State.reset.params ((0x0C#8 :: [0x06, 0x78, 0x56, 0x34, 0x12, 0x0C, 0x06, 0x78,
      0x56]).drop 6) = .error .truncatedBuffer :=
  ⟨by decide +kernel, eq_next (by decide +kernel), eq_next (by decide +kernel), some_ok (by decide +kernel),
    eq_next (by decide +kernel), eq_error (by decide +kernel)⟩

/-- ManufacturerDataEndsTheList: the marker with the fewest bytes after it, and one byte fewer than a turn takes. -/
theorem witness_manufacturerData :
    (defaultParams.vdsTail + defaultParams.vdsMinBeforeTail ≤ ([0xAA, 0x00, 0x16] : Bytes).length + 1) ∧
    (([0xAA, 0x00, 0x16] : Bytes).length < defaultParams.vdsTail + defaultParams.vdsMinBeforeTail) := by decide +kernel

/-! ### WFC unit -/

/-- EncodersBuildTheFrames, ChecksumsAreVerified: the most data, one byte more, and the first and the last byte that the
checksum covers (the checksum byte aside), changed. -/
theorem witness_encoders :
    (List.replicate 252 0xFF#8).length ≤ 252 ∧ 252 < (List.replicate 253 0xFF#8).length ∧
    (4 ≤ 4 ∧ 4 < ([0x01, 0x7A, 0x05] : Bytes).length + 7 ∧ (encLongFrame 0x73 0x01 0x51 [0x01, 0x7A,
      0x05])[4]? ≠ some 0x72#8) ∧
    (4 ≤ 9 ∧ 9 < ([0x01, 0x7A, 0x05] : Bytes).length + 7 ∧ (encLongFrame 0x73 0x01 0x51 [0x01, 0x7A,
      0x05])[9]? ≠ some 0x04#8) := by
  decide +kernel

/-- FramesAreReadBack: frames of no and of 252 data bytes, both settings of the enforcement, `L` of 2, a byte missing. -/
theorem witness_framesAreReadBack :
    (0x03#8).toNat = 3 + ([] : Bytes).length ∧ (0xFF#8).toNat = 3 + (List.replicate 252 0x00#8).length ∧
    State.reset.params.rxEnforceIntegrity = false ∧
    (∃ s : State, s.params.rxEnforceIntegrity = true) ∧
    (([0x03, 0x68, 0x08, 0x01, 0x78, 0x81] : Bytes).length < (0x03#8).toNat + 4) ∧
    ((0x02#8).toNat + 4 ≤ ([0x02, 0x68, 0x08, 0x01, 0x09, 0x16] : Bytes).length ∧ (0x02#8).toNat < 3) ∧
    ([0x10, 0x7B, 0x01, 0x7C] : Bytes).length < 5 ∧ (5 ≤ ([0x68, 0x03, 0x03, 0x68,
      0x53] : Bytes).length ∧ byteAt [0x68, 0x03, 0x03, 0x68, 0x53] 0 ≠ 0x10#8) :=
  ⟨rfl, by decide +kernel, rfl, ⟨{ State.reset with params := { defaultParams with rxEnforceIntegrity := true } }, rfl⟩,
    by decide +kernel, by decide +kernel, by decide +kernel, by decide +kernel⟩

/-- TransportOperationsComplete: an acknowledgement, a long frame, one with every flag cleared, a busy link, and two echoes
before an acknowledgement. -/
theorem witness_transport :
    (([] : Bytes).head? ≠ some 0xE5#8 ∧ ([0x10] : Bytes).head? ≠ some 0xE5#8 ∧ ([0xE5] : Bytes).head? = some 0xE5#8) ∧ (wired [0xE5, 0x01]).kind = .wired ∧ wireless.kind = .wireless ∧
    (wired [0xE5, 0x01]).tpIn = delivered [0xE5#8] ++ [.byte 0x01] ∧ (wired [0xE5, 0x01]).lastTx ≠ some [0xE5#8] ∧
    (wired (encLongFrame 0x08 0x05 0x78 [0x01])).tpIn = delivered (encLongFrame 0x08 0x05 0x78 [0x01]) ++ [] ∧
    ((wired [0x68, 0x03, 0x04, 0x67, 0x08, 0x05, 0x78, 0x00, 0x17]).tpIn = delivered ([0x68#8, 0x03#8, 0x04#8,
      0x67#8, 0x08#8, 0x05#8, 0x78#8] ++ [] ++
      [0x00#8, 0x17#8]) ++ [] ∧ (0x03#8).toNat = 3 + ([] : Bytes).length ∧ State.reset.params.rxEnforceIntegrity = false) ∧
    (∃ s : State, s.kind = .wired ∧ s.link = .awaitingResponse) ∧ (wired [0xE5, 0x01]).link = .idle ∧
    (∃ s : State, s.kind = .wired ∧ s.lastTx = some (encLongFrame 0x73 0x01 0x51 [0x01]) ∧
      s.tpIn = (List.replicate 2 (delivered (encLongFrame 0x73 0x01 0x51 [0x01]))).flatten ++ delivered [0xE5#8]) := by
  refine ⟨by decide, rfl, rfl, rfl, by decide +kernel, by simp [wired], ⟨rfl, rfl, rfl⟩,
    ⟨State.reset.setLink .awaitingResponse, rfl, rfl⟩, rfl, ?_⟩
  exact ⟨{ State.reset with
    lastTx := some (encLongFrame 0x73 0x01 0x51 [0x01])
    tpIn := (List.replicate 2 (delivered (encLongFrame 0x73 0x01 0x51 [0x01]))).flatten ++ delivered [0xE5#8] },
      rfl, rfl, rfl⟩

/-- RxFrameTraps: what each clause asks of the bytes; any stream of events is some state's. -/
theorem witness_rxFrameTraps :
    (∀ es : List TpEvent, ∃ s : State, s.kind = .wired ∧ s.link = .idle ∧ s.tpIn = es ∧
      s.params.rxEnforceIntegrity = true) ∧
    (0x10#8 ≠ 0xE5#8 ∧ 0x10#8 ≠ 0x68#8) ∧
    ([0x03, 0x68, 0x08, 0x01, 0x78, 0x81] : Bytes).length < (0x03#8).toNat + 4 ∧
    (([0x02, 0x68, 0x08, 0x01, 0x09, 0x16] : Bytes).length = (0x02#8).toNat + 4 ∧ (0x02#8).toNat < 3) ∧
    ((0x03#8).toNat = 3 + ([] : Bytes).length ∧ 0x82#8 ≠ checksum ([0x08#8, 0x01#8, 0x78#8] ++ [])) :=
  ⟨fun es => ⟨{ State.reset with tpIn := es, params := { defaultParams with rxEnforceIntegrity := true } }, rfl, rfl, rfl, rfl⟩,
    by decide, by decide +kernel, by decide +kernel, by decide +kernel⟩

/-- AcknowledgedOperationsComplete, AcknowledgedOperationsExchangeFrames: an idle wired session that will be acknowledged,
the longest payload and one byte more, an address; the exchange that ends in a long frame, and in silence. -/
theorem witness_acknowledged :
    (twoAddrs [0xE5]).kind = .wired ∧ (twoAddrs [0xE5]).link = .idle ∧ (twoAddrs [0xE5]).tpIn = delivered [0xE5#8] ++ [] ∧
    (List.replicate 252 0xFF#8).length ≤ 252 ∧ 252 < (List.replicate 253 0xFF#8).length ∧
    saAt (twoAddrs [0xE5]) (.obj 0) = .ok lugLh ∧ lugLh.raw.length = 8 ∧
    (∃ m, exec (.txFrame [0x01]) (wired [0x68, 0x03, 0x03, 0x68, 0x08, 0x01, 0x78, 0x81, 0x16]) = .next m ∧
      nextIs (exec (.rxFrame 0) m) (fun t => match t.resp with
        | some (.result (.received (.long _))) => true
        | _ => false) = true) ∧
    (∃ m, exec (.txFrame [0x01]) (wired []) = .next m ∧ raises .noResponse (exec (.rxFrame 0) m) = true) := by
  refine ⟨rfl, rfl, rfl, by decide +kernel, by decide +kernel, rfl, rfl, ?_, ?_⟩
  · exact ⟨_, rfl, by decide +kernel⟩
  · exact ⟨_, rfl, by decide +kernel⟩

/-- LnkReadTogglesOnEveryEnding: a read that ends in a result and one that ends in an exception, each followed by another. -/
theorem witness_lnkReadToggles :
    ∀ bs ∈ [[0x68, 0x0E, 0x0E, 0x68, 0x38, 0x05, 0x78, 0x0C, 0x06, 0x78, 0x56, 0x34, 0x12, 0x0B, 0x5A, 0x17, 0x02,
      0x00, 0x59, 0x16], ([] : Bytes)],
      ∃ u, exec (.lnkRead 0xFF 0) (wired bs) = .next u ∧ nextIs (exec (.lnkRead 0xFF 0) u) (fun _ => true) = true := by
  intro bs hbs
  refine exists_next (fun u => nextIs (exec (.lnkRead 0xFF 0) u) (fun _ => true)) ?_ (fun _ h => h)
  revert bs; decide +kernel

/-- LnkReadDecodesTheResponse: the control bytes `08` and `38` and two that are no RSP_UD, no data and the most, an encrypted
response. -/
theorem witness_lnkReadDecodes :
    (∀ es : List TpEvent, ∃ s : State, s.kind = .wired ∧ s.link = .idle ∧ s.tpIn = es) ∧
    (∀ c ∈ [0x08#8, 0x38#8], c.toNat % 16 = 8 ∧ c.toNat < 64) ∧ (∀ c ∈ [0x48#8, 0x09#8],
      ¬(c.toNat % 16 = 8 ∧ c.toNat < 64)) ∧
    (∃ l, readRecords State.reset.params ([] ++ [checksum ([0x08#8, 0x01#8, 0x78#8] ++ []), 0x16#8]) = .ok l) ∧
    (∃ l, readRecords State.reset.params (List.replicate 252 0x2F#8 ++
      [checksum ([0x38#8, 0x01#8, 0x78#8] ++ List.replicate 252 0x2F#8), 0x16#8]) = .ok l) ∧
    (List.replicate 248 0x00#8).length ≤ 248 ∧ (0x05#8).toNat % 16 = 5 :=
  ⟨fun es => ⟨{ State.reset with tpIn := es }, rfl, rfl, rfl⟩, by decide +kernel, by decide +kernel, some_ok (by decide +kernel),
    some_ok (by decide +kernel), by decide +kernel, by decide +kernel⟩

/-- ScanselAnswersWhetherAnythingArrived: silence, and a byte of a collision. -/
theorem witness_scansel :
    (wired []).kind = .wired ∧ (wired []).link = .idle ∧ (List.replicate 8 0xFF#8).length = 8 ∧ Silent (wired []).tpIn ∧
    Silent [.timeout, .byte 0xE5] ∧ (wired [0x00, 0x11]).tpIn = .byte 0x00 :: [.byte 0x11] ∧ 0x00#8 ≠ 0x68#8 :=
  ⟨rfl, rfl, rfl, .inl rfl, .inr ⟨_, rfl⟩, rfl, by decide⟩

/-! ### WLC unit -/

/-- WlDecReadsTheHeader: the least length, the frame that fills the buffer, an address that is read and one that is not, a
length one too great and one too small, no byte; and the four phases. -/
theorem witness_wlDec :
    wireless.kind = .wireless ∧ (∀ m : WlMessage, ∃ s : State, s.msgs[0]? = some m) ∧
    (∀ ph : MsgPhase, { WlMessage.new s5 [0x01] with phase := ph }.phase = ph) ∧
    (WlMessage.new [0x0A, 0x44, 0xA7, 0x32, 0x06, 0x13, 0x99, 0x67, 0x07, 0x04,
      0x78] [0x01]).buf = 0x0A#8 :: 0x44#8 :: lugLl.raw ++ [0x78] ∧
    (10 ≤ (0x0A#8).toNat ∧ (0x0A#8).toNat ≤ 9 + ([0x78] : Bytes).length) ∧
    lugLl.raw.length = 8 ∧ PackedDecimal ((lugLl.raw.drop 2).take 4) ∧
    ¬PackedDecimal ((([0xA7, 0x32, 0x06, 0x13, 0x9A, 0x67, 0x07, 0x04] : Bytes).drop 2).take 4) ∧
    (s5.take 44).length - 1 < (0x2C#8).toNat ∧
    ((0x09#8).toNat ≤ ([0x44, 0xA7, 0x32, 0x06, 0x13, 0x99, 0x67, 0x07,
      0x04] : Bytes).length ∧ (0x09#8).toNat < 10) :=
  ⟨rfl, fun m => ⟨{ wireless with msgs := [m] }, rfl⟩, fun _ => rfl, rfl, by decide +kernel, rfl,
    by unfold PackedDecimal; decide +kernel, by unfold PackedDecimal; decide +kernel, by decide +kernel, by decide +kernel⟩

/-- WlDeepDecodesTheVds: a message in phase Header whose VDS decodes, one whose VDS lacks a key, one in phase Raw whose header
decodes, and one whose header does not. -/
theorem witness_wlDeep :
    (∀ m : WlMessage, ∃ s : State, s.msgs[0]? = some m) ∧
    (∀ e ∈ [(s5, lugLl), (p3, p3Addr)],
      nextIs (exec (.wlDec 0) (withMsg e.1))
        (fun t => t.msgs.all (fun m => m.phase == .header && m.secondaryAddress == some e.2)) = true) ∧
    nextIs (exec (.wlDec 0) (withMsg s5)) (fun t => answers (.message 0) (exec (.wlDeep 0) t)) = true ∧
    nextIs (exec (.wlDec 0) (withMsg p3)) (fun t => raises .missingKey (exec (.wlDeep 0) t)) = true ∧
    (WlMessage.new s5 [0x01]).phase = .raw ∧
    raises .wirelessLengthExceedsBuffer (exec (.wlDec 0) (withMsg (s5.take 44))) = true :=
  ⟨fun m => ⟨{ wireless with msgs := [m] }, rfl⟩, by decide +kernel, by decide +kernel, by decide +kernel, rfl,
    by decide +kernel⟩

/-! ### SCAN unit -/

/-- ScanInitReadsTheMask: masks whose first wildcard is at position 0, at 7 and nowhere, one of 15 characters, one with a
letter next to the allowed ones. -/
theorem witness_scanInit :
    State.reset.kind = .wired ∧
    (∀ front ∈ [['f', 'f', 'f', 'f', 'f', 'f', 'f', 'f'], ['7', '8', '5', '6', '3', '4', 'f', '2'],
        ['7', '8', '5', '6', '3', '4', '9', '0']],
      (front ++ List.replicate 8 'F').length = 16 ∧ ∀ c ∈ front ++ List.replicate 8 'F', c ∈ maskChars) ∧
    (List.replicate 15 'f').length ≠ 16 ∧ (∃ c ∈ 'e' :: List.replicate 15 'f', c ∉ maskChars) ∧
    (∃ c ∈ ':' :: List.replicate 15 'f', c ∉ maskChars) := by
  refine ⟨rfl, ?_, by simp, ⟨'e', by simp, by simp [maskChars]⟩, ⟨':', by simp, by simp [maskChars]⟩⟩
  intro front hf
  have h : (front ++ List.replicate 8 'F').length = 16 ∧
      (front ++ List.replicate 8 'F').all (fun c => maskChars.contains c) = true := by
    simp only [List.mem_cons, List.not_mem_nil, or_false] at hf
    rcases hf with rfl | rfl | rfl <;> exact ⟨rfl, rfl⟩
  exact ⟨h.1, fun c hc => by simpa using List.all_eq_true.mp h.2 c hc⟩

/-- ScanNarrowGoesOneNibbleFiner, ScanAdvTakesTheNextCandidate: the first and last position to narrow at, one too far, a
wireless session, and a scanner for each of the four clauses of SCAN.ADV. -/
theorem witness_scanMoves :
    (∀ pos ∈ [0, 6], (scanning pos [8] []).kind = .wired ∧ (scanning pos [8] []).scanner.pos < 7 ∧
      (scanning pos [8] []).scanner.value.length = 16) ∧
    7 ≤ (scanning 7 [8] []).scanner.pos ∧ wireless.kind = .wireless ∧ (scanning 7 [1, 2, 3, 4, 5, 6, 7, 9] []).scanner.shaped ∧
    (∀ e ∈ [(1, [8, 8]), (0, [9]), (2, [3, 9, 9]), (2, [9, 10, 9]), (1, [10, 9])], (scanAt e.1 e.2).shaped) ∧
    (8 + 1 < 10 ∧ 10 ≤ 9 + 1 ∧ 9 + 1 ≤ 10 ∧ 10 < 10 + 1) := by
  unfold Scanner.shaped; decide +kernel

/-- ScanStepProbesOnce: silence, a collision at `pos` 0 and 7, and the answer of P4's `D2` found for the first time and
found before. -/
theorem witness_scanStep :
    (∀ e ∈ [(0, [0], ([] : Bytes)), (0, [9], [0x00, 0x00]), (7, [8, 7, 6, 5, 4, 3, 2, 1], [0x00, 0x00])],
      (scanning e.1 e.2.1 e.2.2).kind = .wired ∧ (scanning e.1 e.2.1 e.2.2).link = .idle) ∧
    answers (.bit false) (exec (.lnkScansel [0xF0, 0xFF, 0xFF, 0xFF, 0xFF, 0xFF, 0xFF,
      0xFF] 0) (scanning 0 [0] [])) = true ∧
    nextIs (exec (.lnkScansel [0xF9, 0xFF, 0xFF, 0xFF, 0xFF, 0xFF, 0xFF, 0xFF] 0) (scanning 0 [9] [0x00, 0x00]))
      (fun a => a.resp == some (.result (.bit true)) &&
        nextIs (exec (.lnkRead 0xFD 0) a) (fun b => b.vdss == [])) = true ∧
    nextIs (exec (.lnkScansel [0x69, 0xFF, 0xFF, 0xFF, 0xFF, 0xFF, 0xFF, 0xFF] 0) (scanning 1 [9, 6]
        [0xE5, 0x68, 0x15, 0x15, 0x68, 0x08, 0x01, 0x72, 0x69, 0x56, 0x34, 0x12, 0xA7, 0x32, 0x07, 0x04, 0x01,
      0x00, 0x00, 0x00, 0x0C, 0x06, 0x78, 0x56, 0x34, 0x12, 0x8B, 0x16]))
      (fun a => a.resp == some (.result (.bit true)) &&
        nextIs (exec (.lnkRead 0xFD 0) a) (fun b => b.vdss.map (fun v => (v.ci,
      v.secondaryAddress.map (fun x => x.raw))) ==
          [(0x72, some [0x69, 0x56, 0x34, 0x12, 0xA7, 0x32, 0x07, 0x04])])) = true ∧
    (∃ e ∈ [lugLh], e.raw = lugLh.raw) ∧ (∀ e ∈ [lugLl], e.raw ≠ lugLh.raw) := by
  decide +kernel

/-- ScanRunTerminates: a mask of 16 allowed characters on an idle wired session; an abort that arrives first. -/
theorem witness_scanRun :
    ({ State.reset with tpIn := [.abortBetween] } : State).tpIn.head? = some .abortBetween ∧ State.reset.kind = .wired ∧ State.reset.link = .idle ∧ (List.replicate 16 'f').length = 16 ∧
    (∀ c ∈ List.replicate 16 'f', c ∈ maskChars) := by
  refine ⟨rfl, rfl, rfl, by simp, ?_⟩
  simp [maskChars, List.replicate]

/-! ### Formats -/

/-- MaskWildcardAndIvLayouts: the empty string, a pair, three characters; 16 nibbles; 8 raw bytes. -/
theorem witness_masks :
    ([] : List Char).length % 2 = 0 ∧ ['f', '1'].length % 2 = 0 ∧ ['f', '1', '2'].length % 2 = 1 ∧
    (List.replicate 16 0x1F#8).length = 16 ∧ lugLl.raw.length = 8 := by decide +kernel

/-- BytesAreNamed: the three cases of a lead byte. -/
theorem witness_bytes :
    0xE5#8 ∈ [0xE5#8, 0x68#8] ∧ 0x68#8 ∈ [0xE5#8, 0x68#8] ∧ (0x10#8 ≠ 0xE5#8 ∧ 0x10#8 ≠ 0x68#8) := by decide

/-- StructuresAreRead: an address in each order and one that is none, 7 bytes, the least and the greatest length that fits,
chains of one and of two bytes, a VIB of the table and one that is not. -/
theorem witness_structures :
    (lugLh.raw.length = 8 ∧ PackedDecimal (lugLh.raw.take 4) ∧ PackedDecimal ((lugLl.raw.drop 2).take 4) ∧
      ¬PackedDecimal (([0x9A, 0x67, 0x06, 0x13, 0xA7, 0x32, 0x07,
      0x04] : Bytes).take 4) ∧ (lugLh.raw.take 7).length < 8) ∧
    (10 ≤ (0x0A#8).toNat ∧ (0x0A#8).toNat ≤ 9 + ([0x78] : Bytes).length) ∧ Chained [0x7F] ∧ Chained [0x80, 0x00] ∧
    (State.reset.params.viftab.find? (fun x => x.1 == [0x06]) = some ([0x06], vifRow .energy .wattHour 3 .numeric)) ∧
    (∀ e ∈ State.reset.params.viftab, e.1 ≠ [0x80, 0x00]) ∧ PackedDecimal [0x78, 0x56, 0x34, 0xF2] := by
  refine ⟨?_, by decide +kernel, by simp [Chained], by simp [Chained], by decide +kernel, by decide +kernel, ?_⟩ <;>
    unfold PackedDecimal <;> decide +kernel

end Sys2Proof.Tests
end

/-! The construction of a VDS object (44_vds.md R280). -/

namespace Sys2Proof.Machine

/-- The dispatch of VDS.NEW. -/
theorem exec_vdsNew (buf : Bytes) (off len : Nat) (ll : Option SaRef) (keys : Bool) (s : State) :
    exec (.vdsNew buf off len ll keys) s = execVdsNew buf off len ll keys s :=
  rfl

/-- Once its optional address is there, VDS.NEW completes: it adds the new object and answers its reference (R280). -/
theorem execVdsNew_of_optSaAt_ok {ll : Option SaRef} {addr : Option SecondaryAddress} {s : State}
    (h : optSaAt s ll = .ok addr) (buf : Bytes) (off len : Nat) (keys : Bool) :
    execVdsNew buf off len ll keys s =
      .next ((s.addVds (Vds.new buf off len addr keys)).respond (.vds s.vdss.length)) := by
  rw [execVdsNew, h, finish_ok]

/-- Settles O33: by the form of the address operand, then the new object is `Vds.new`, whose fields are the operands and
the construction values. -/
theorem vdsNewStoresItsOperands : Obligations.VdsNewStoresItsOperands := by
  intro buf off len ll addr keys s haddr
  have hll : optSaAt s ll = .ok addr := by
    rw [optSaAt_ok]
    match ll, haddr with
    | none, h => exact h
    | some (.ofVds _), ⟨w, hw, hphase, ha⟩ => exact ⟨w, hw, hphase, ha.symm⟩
    | some (.obj _), ⟨a, ha, hsa⟩ => exact ⟨a, hsa, ha⟩
    | some (.ofMsg _), ⟨a, ha, hsa⟩ => exact ⟨a, hsa, ha⟩
    | some (.found _), ⟨a, ha, hsa⟩ => exact ⟨a, hsa, ha⟩
  refine ⟨Vds.new buf off len addr keys, ?_, rfl, rfl, rfl, rfl, rfl, rfl, rfl, rfl, rfl, rfl, rfl, rfl, rfl, rfl, rfl⟩
  rw [exec_vdsNew, execVdsNew_of_optSaAt_ok hll]

end Sys2Proof.Machine

/-! Packed decimals as BCD.DEC reads them (40_bcd.md R141). -/

namespace Sys2Proof.Machine

/-! ## The digits -/

/-- The last byte: its high nibble is the sentinel and no digit, or a digit. -/
theorem bcdDigits_singleton_ok {x : Byte} {ds : List Nat} :
    bcdDigits [x] = .ok ds ↔ lo x ≤ 9 ∧ (hi x = 15 ∧ ds = [lo x] ∨ hi x ≤ 9 ∧ ds = [lo x, hi x]) := by
  rw [bcdDigits]
  split
  case isTrue hlo => exact ⟨fun h => (nomatch h), fun h => absurd h.1 (by omega)⟩
  case isFalse hlo =>
    split
    case isTrue hsent => simp [hsent, Nat.le_of_not_gt hlo, eq_comm]
    case isFalse hsent =>
      split
      case isTrue hhi => simp [hsent, Nat.not_le_of_gt hhi]
      case isFalse hhi => simp [hsent, Nat.le_of_not_gt hlo, Nat.le_of_not_gt hhi, eq_comm]

/-- A byte that is not the last gives two digits, before those of the bytes after it. -/
theorem bcdDigits_cons_cons_ok {x y : Byte} {b : Bytes} {ds : List Nat} :
    bcdDigits (x :: y :: b) = .ok ds ↔
      (lo x ≤ 9 ∧ hi x ≤ 9) ∧ ∃ ds', bcdDigits (y :: b) = .ok ds' ∧ ds = lo x :: hi x :: ds' := by
  rw [bcdDigits]
  split
  case isTrue hbad => exact ⟨fun h => (nomatch h), fun h => absurd h.1 (by omega)⟩
  case isFalse hbad =>
    have hdig : lo x ≤ 9 ∧ hi x ≤ 9 := by omega
    simp only [Dec.bind_ok, hdig, and_self, true_and, Except.ok.injEq, eq_comm (b := ds)]

@[simp] theorem bcdNegative_singleton (x : Byte) : bcdNegative [x] = (hi x == 15) := rfl

/-- Only the last byte decides the sign. -/
@[simp] theorem bcdNegative_cons_cons (x y : Byte) (b : Bytes) : bcdNegative (x :: y :: b) = bcdNegative (y :: b) := by
  simp [bcdNegative]

/-- The sign nibble is that of the most significant byte. -/
theorem bcdNegative_eq_byteAt (b : Bytes) : bcdNegative b = (hi (byteAt b (b.length - 1)) == 15) := by
  simp [bcdNegative, byteAt, List.getLastD_eq_getLast?, List.getLast?_eq_getElem?, List.getD_eq_getElem?_getD]

/-- Two digits a byte, less the nibble of the sentinel. -/
theorem bcdDigits_length {b : Bytes} {ds : List Nat} (h : bcdDigits b = .ok ds) :
    ds.length = if bcdNegative b then 2 * b.length - 1 else 2 * b.length := by
  induction b generalizing ds with
  | nil => cases h; rfl
  | cons x b ih =>
    cases b with
    | nil =>
      obtain ⟨-, ⟨hsent, rfl⟩ | ⟨hhi, rfl⟩⟩ := bcdDigits_singleton_ok.mp h
      · simp [hsent]
      · have hnot : hi x ≠ 15 := by omega
        simp [hnot]
    | cons y b =>
      obtain ⟨-, ds', hds', rfl⟩ := bcdDigits_cons_cons_ok.mp h
      simp only [List.length_cons, ih hds', bcdNegative_cons_cons]
      split <;> omega

/-- Digits `2k` and `2k + 1` are the low and the high nibble of byte `k`, the high one unless it is the sentinel. -/
theorem bcdDigits_getElem? {b : Bytes} {ds : List Nat} (h : bcdDigits b = .ok ds) {k : Nat} (hk : k < b.length) :
    ds[2 * k]? = some (lo (byteAt b k)) ∧ (hi (byteAt b k) ≤ 9 → ds[2 * k + 1]? = some (hi (byteAt b k))) := by
  induction b generalizing ds k with
  | nil => cases hk
  | cons x b ih =>
    cases b with
    | nil =>
      obtain rfl : k = 0 := Nat.lt_one_iff.mp hk
      obtain ⟨-, ⟨hsent, rfl⟩ | ⟨-, rfl⟩⟩ := bcdDigits_singleton_ok.mp h
      · exact ⟨rfl, fun hhi : hi x ≤ 9 => absurd hsent (by omega)⟩
      · exact ⟨rfl, fun _ => rfl⟩
    | cons y b =>
      obtain ⟨-, ds', hds', rfl⟩ := bcdDigits_cons_cons_ok.mp h
      cases k with
      | zero => exact ⟨rfl, fun _ => rfl⟩
      | succ k => exact ih hds' (Nat.lt_of_succ_lt_succ hk)

/-! ## The operation -/

/-- The dispatch of BCD.DEC. -/
theorem exec_bcdDec (b : Bytes) (s : State) : exec (.bcdDec b) s = execBcdDec b s := rfl

/-- Of one byte or more, the operation is the decoder. -/
theorem bcdDecodeOp_of_ne_nil {b : Bytes} (hb : b ≠ []) : bcdDecodeOp b = Run.ofDec (bcdDecode b) := by
  simp [bcdDecodeOp, hb]

/-- No byte at all is refused (93 U4). -/
theorem execBcdDec_nil (s : State) : execBcdDec [] s = .refused .emptyBcd := rfl

/-- A byte string that is no packed decimal raises BcdInvalidNibble, and no object is made. -/
theorem execBcdDec_of_not_packed {b : Bytes} (hb : b ≠ []) (h : ¬PackedDecimal b) (s : State) :
    execBcdDec b s = .next (s.raise .bcdInvalidNibble) := by
  rw [execBcdDec, bcdDecodeOp_of_ne_nil hb, (bcdDecode_packed hb).2 h, Run.ofDec, finish_raised]

/-- What the decoder reads becomes a new object, and its reference is the answer. -/
theorem execBcdDec_of_decode {b : Bytes} {x : Bcd} (hb : b ≠ []) (h : bcdDecode b = .ok x) (s : State) :
    execBcdDec b s = .next ((s.addBcd x).respond (.bcd s.bcds.length)) := by
  rw [execBcdDec, bcdDecodeOp_of_ne_nil hb, h, Run.ofDec, finish_ok]

/-- Settles O19: no byte, no packed decimal, or a packed decimal, whose digits are those of `bcdDigits`, read byte by
byte. -/
theorem bcdDecReadsPackedDecimals : Obligations.BcdDecReadsPackedDecimals := by
  intro b s
  rw [exec_bcdDec]
  refine ⟨?empty, fun hb h => execBcdDec_of_not_packed hb h s, fun h => ?packed⟩
  case empty =>
    rintro rfl
    exact execBcdDec_nil s
  case packed =>
    obtain ⟨x, hx⟩ := (bcdDecode_packed h.1).1 h
    obtain ⟨hbytes, hneg, hdigits⟩ := bcdDecode_bytes hx
    refine ⟨x, execBcdDec_of_decode h.1 hx s, hbytes, ?_, ?_, fun k hk => bcdDigits_getElem? hdigits hk⟩
    · rw [hneg, bcdNegative_eq_byteAt]
    · rw [hneg, bcdDigits_length hdigits]

end Sys2Proof.Machine

/-! Manufacturer ids as MAN.ENC packs them (41_secondary_address.md R163). -/

namespace Sys2Proof.Machine

/-! ## The word of three letters -/

/-- The word of R163: the letters' groups, 5 bits each, the first letter's the most significant. -/
def letterWord (c0 c1 c2 : Char) : Nat := (c0.toNat - 64) * 1024 + (c1.toNat - 64) * 32 + (c2.toNat - 64)

/-- A letter's group is at most 26, so the word leaves bit 15 clear. -/
theorem letterWord_lt {c0 c1 c2 : Char} (h0 : UpperCase c0) (h1 : UpperCase c1) (h2 : UpperCase c2) :
    letterWord c0 c1 c2 < 32768 := by
  obtain ⟨-, h0⟩ := h0
  obtain ⟨-, h1⟩ := h1
  obtain ⟨-, h2⟩ := h2
  unfold letterWord
  omega

/-- The low and the high byte of a 16-bit word make the word again (F-MAN, 30_encoding.md R103). -/
theorem manWord_ofNat {w : Nat} (h : w < 65536) : manWord (BitVec.ofNat 8 w) (BitVec.ofNat 8 (w / 256)) = w := by
  simp only [manWord, BitVec.toNat_ofNat]
  omega

/-- Bit 15 of a word is the top bit of its high byte. -/
theorem highByte_msb_eq_false {w : Nat} (h : w < 32768) : (BitVec.ofNat 8 (w / 256)).msb = false := by
  rw [BitVec.msb_eq_false_iff_two_mul_lt, BitVec.toNat_ofNat]
  omega

/-! ## The encoder -/

/-- The encoder's test is the letter range of R163. -/
@[simp] theorem isUpperAZ_iff {c : Char} : isUpperAZ c = true ↔ UpperCase c := decide_eq_true_iff

/-- Three upper-case letters give the two bytes of their word, the low one first. -/
theorem manEncode_of_upper {c0 c1 c2 : Char} (h0 : UpperCase c0) (h1 : UpperCase c1) (h2 : UpperCase c2) :
    manEncode [c0, c1, c2] =
      .ok [BitVec.ofNat 8 (letterWord c0 c1 c2), BitVec.ofNat 8 (letterWord c0 c1 c2 / 256)] := by
  simp [manEncode, h0, h1, h2, letterWord]

/-- A string of another length gives the all-zero id, whatever its characters. -/
theorem manEncode_of_length_ne {str : List Char} (h : str.length ≠ 3) : manEncode str = .ok [0x00#8, 0x00#8] := by
  match str, h with
  | [], _ => rfl
  | [_], _ => rfl
  | [_, _], _ => rfl
  | [_, _, _], h => exact absurd rfl h
  | _ :: _ :: _ :: _ :: _, _ => rfl

/-- One character of three outside `A..Z` is enough for the refusal (93 U3). -/
theorem manEncode_of_not_upper {str : List Char} (hlen : str.length = 3) (h : ∃ c ∈ str, ¬UpperCase c) :
    manEncode str = .error (.refused .manufacturerIdNotUppercase) := by
  obtain ⟨c0, c1, c2, rfl⟩ := List.length_eq_three.mp hlen
  have hnot : ¬((isUpperAZ c0 && isUpperAZ c1 && isUpperAZ c2) = true) := by
    simp only [Bool.and_eq_true, isUpperAZ_iff]
    rintro ⟨⟨h0, h1⟩, h2⟩
    simp [h0, h1, h2] at h
  rw [manEncode, if_neg hnot]

/-! ## The operation -/

/-- The dispatch of MAN.ENC. -/
theorem exec_manEnc (str : List Char) (s : State) : exec (.manEnc str) s = execManEnc str s := rfl

/-- The encoder's two bytes are the answer. -/
theorem execManEnc_of_ok {str : List Char} {b : Bytes} (h : manEncode str = .ok b) (s : State) :
    execManEnc str s = .next (s.respond (.bytes b)) :=
  conclude_next.mpr (.inl ⟨_, Run.bind_ok.mpr ⟨b, h, rfl⟩, rfl⟩)

/-- A refusal of the encoder is the operation's. -/
theorem execManEnc_of_refused {str : List Char} {x : Refusal} (h : manEncode str = .error (.refused x)) (s : State) :
    execManEnc str s = .refused x := by
  rw [execManEnc, Run.bind_error.mpr (.inl h), conclude_refused]

/-- Settles O23: `manEncode` by its three cases, and the two bytes of `letterWord` read back as the word. -/
theorem manEncPacksThreeLetters : Obligations.ManEncPacksThreeLetters := by
  refine ⟨fun c0 c1 c2 s h0 h1 h2 => ?letters, fun str s hlen => ?length, fun str s hlen hbad => ?character⟩
  case letters =>
    have hlt := letterWord_lt h0 h1 h2
    exact ⟨_, _, execManEnc_of_ok (manEncode_of_upper h0 h1 h2) s, manWord_ofNat (by omega),
      highByte_msb_eq_false hlt⟩
  case length => exact execManEnc_of_ok (manEncode_of_length_ne hlen) s
  case character => exact execManEnc_of_refused (manEncode_of_not_upper hlen hbad) s

end Sys2Proof.Machine

/-! The causes a decoder can fail with (60_exceptions.md R470), from the reads at the cursor up to the body of VDS.DEC. -/

namespace Sys2Proof.Machine

/-! ## Decoders that fail only with given causes -/

/-- Every failure of the decoder has one of these causes. -/
def Dec.FailsIn {α : Type} (causes : List Cause) (d : Dec α) : Prop := ∀ c, d = .error c → c ∈ causes

theorem Dec.failsIn_ok {α : Type} {causes : List Cause} (a : α) : Dec.FailsIn causes (.ok a : Dec α) :=
  fun _ h => nomatch h

theorem Dec.failsIn_error {α : Type} {causes : List Cause} {c : Cause} (hc : c ∈ causes) :
    Dec.FailsIn causes (.error c : Dec α) :=
  fun _ h => by cases h; exact hc

theorem Dec.FailsIn.mono {α : Type} {causes causes' : List Cause} {d : Dec α} (h : Dec.FailsIn causes d)
    (hsub : causes ⊆ causes') : Dec.FailsIn causes' d :=
  fun c hc => hsub (h c hc)

/-- A part after a part fails with a cause of one of them. -/
theorem Dec.FailsIn.bind {α β : Type} {causes : List Cause} {d : Dec α} {f : α → Dec β} (h : Dec.FailsIn causes d)
    (hf : ∀ a, Dec.FailsIn causes (f a)) : Dec.FailsIn causes (d >>= f) := by
  intro c hc
  obtain hd | ⟨a, -, ha⟩ := Dec.bind_error.mp hc
  · exact h c hd
  · exact hf a c ha

/-! ## Reads at the cursor (20_memory.md R66) -/

theorem window_failsIn (buf : Bytes) (off len : Nat) : Dec.FailsIn [.truncatedBuffer] (window buf off len) :=
  fun _ h => List.mem_singleton.mpr (window_error.mp h).2

theorem memRead_failsIn (n : Nat) (w : Bytes) : Dec.FailsIn [.truncatedBuffer] (memRead n w) :=
  fun _ h => List.mem_singleton.mpr (memRead_error.mp h).2

theorem memReadByte_failsIn (w : Bytes) : Dec.FailsIn [.truncatedBuffer] (memReadByte w) := by
  cases w with
  | nil => exact Dec.failsIn_error (by decide)
  | cons b w => exact Dec.failsIn_ok _

theorem chain_failsIn (w : Bytes) : Dec.FailsIn [.truncatedBuffer] (chain w) :=
  fun _ h => List.mem_singleton.mpr (chain_error h)

theorem bcdDecode_failsIn (b : Bytes) : Dec.FailsIn [.bcdInvalidNibble] (bcdDecode b) :=
  fun _ h => List.mem_singleton.mpr (bcdDecode_error h)

/-! ## Data records (42_data_record.md R191) -/

/-- The failures of DR.DEC: the row of R470. -/
def recordCauses : List Cause := [.truncatedBuffer, .unrecognisedDifVif, .bcdInvalidNibble]

theorem vifLookup_failsIn (p : Params) (vib : Bytes) : Dec.FailsIn [.unrecognisedDifVif] (vifLookup p vib) := by
  unfold vifLookup
  split
  case h_1 => exact Dec.failsIn_ok _
  case h_2 => exact Dec.failsIn_error (by decide)

theorem readLong_failsIn (n : Nat) (w : Bytes) : Dec.FailsIn [.truncatedBuffer] (readLong n w) :=
  (memRead_failsIn n w).bind fun _ => Dec.failsIn_ok _

theorem readFloat_failsIn (w : Bytes) : Dec.FailsIn [.truncatedBuffer] (readFloat w) :=
  (memRead_failsIn 4 w).bind fun _ => Dec.failsIn_ok _

theorem readDateG_failsIn (w : Bytes) : Dec.FailsIn [.truncatedBuffer] (readDateG w) :=
  (memRead_failsIn 2 w).bind fun _ => Dec.failsIn_ok _

theorem readDateF_failsIn (w : Bytes) : Dec.FailsIn [.truncatedBuffer] (readDateF w) :=
  (memRead_failsIn 4 w).bind fun _ => Dec.failsIn_ok _

theorem readBcd_failsIn (n : Nat) (w : Bytes) :
    Dec.FailsIn [.truncatedBuffer, .bcdInvalidNibble] (readBcd n w) :=
  ((memRead_failsIn n w).mono (by decide)).bind fun _ =>
    ((bcdDecode_failsIn _).mono (by decide)).bind fun _ => Dec.failsIn_ok _

/-- An `LVAR` that announces no string is unrecognised; a string past the bound is truncated (R201). -/
theorem readString_failsIn (w : Bytes) : Dec.FailsIn [.truncatedBuffer, .unrecognisedDifVif] (readString w) := by
  refine ((memReadByte_failsIn w).mono (by decide)).bind fun ⟨lvar, w⟩ => ?_
  dsimp only
  split
  · exact Dec.failsIn_error (by decide)
  · exact ((memRead_failsIn _ w).mono (by decide)).bind fun _ => Dec.failsIn_ok _

/-- The data field, row by row of R196 and R204. -/
theorem readData_failsIn (code : Nat) (hint : Hint) (w : Bytes) :
    Dec.FailsIn recordCauses (readData code hint w) := by
  have noData : Dec.FailsIn recordCauses (.ok (DataValue.none, w)) := Dec.failsIn_ok _
  have unrecognised : Dec.FailsIn recordCauses (.error .unrecognisedDifVif : Dec (DataValue × Bytes)) :=
    Dec.failsIn_error (by decide)
  have long n : Dec.FailsIn recordCauses (readLong n w) := (readLong_failsIn n w).mono (by decide)
  have bcd n : Dec.FailsIn recordCauses (readBcd n w) := (readBcd_failsIn n w).mono (by decide)
  unfold readData
  cases hint with
  | date =>
    dsimp only
    split
    · exact (readDateG_failsIn w).mono (by decide)
    · split
      · exact (readDateF_failsIn w).mono (by decide)
      · exact unrecognised
  | numeric =>
    dsimp only
    split
    exacts [noData, noData, (readString_failsIn w).mono (by decide), long 1, long 2, long 3, long 4,
      (readFloat_failsIn w).mono (by decide), long 6, long 8, bcd 1, bcd 2, bcd 3, bcd 4, bcd 6, unrecognised]

theorem readRecord_failsIn (p : Params) (w : Bytes) : Dec.FailsIn recordCauses (readRecord p w) :=
  ((chain_failsIn w).mono (by decide)).bind fun ⟨_, w⟩ =>
    ((chain_failsIn w).mono (by decide)).bind fun ⟨vib, w⟩ =>
      ((vifLookup_failsIn p vib).mono (by decide)).bind fun e =>
        (readData_failsIn _ e.hint w).bind fun _ => Dec.failsIn_ok _

/-! ## The parts of VDS.DEC (44_vds.md R286 to R304) -/

theorem recordLoop_failsIn (p : Params) (fuel : Nat) (w : Bytes) :
    Dec.FailsIn recordCauses (recordLoop p fuel w) := by
  induction fuel generalizing w with
  | zero => exact Dec.failsIn_ok _
  | succ fuel ih =>
    rw [recordLoop]
    split
    · exact Dec.failsIn_ok _
    · refine ((memReadByte_failsIn w).mono (by decide)).bind fun ⟨x, rest⟩ => ?_
      dsimp only
      split
      case h_1 => exact ih rest
      case h_2 => exact Dec.failsIn_ok _
      case h_3 =>
        exact (readRecord_failsIn p w).bind fun ⟨_, rest⟩ => (ih rest).bind fun _ => Dec.failsIn_ok _

theorem readRecords_failsIn (p : Params) (w : Bytes) : Dec.FailsIn recordCauses (readRecords p w) :=
  recordLoop_failsIn p _ w

theorem readShortHeader_failsIn (w : Bytes) : Dec.FailsIn [.truncatedBuffer] (readShortHeader w) :=
  (memRead_failsIn 4 w).bind fun _ => Dec.failsIn_ok _

theorem readSaLh_failsIn (w : Bytes) : Dec.FailsIn [.truncatedBuffer, .bcdInvalidNibble] (readSaLh w) :=
  ((memRead_failsIn _ w).mono (by decide)).bind fun ⟨raw, _⟩ =>
    (((bcdDecode_failsIn (raw.take 4)).mono (by decide)).bind fun _ => Dec.failsIn_ok _).bind fun _ =>
      Dec.failsIn_ok _

theorem readLongHeader_failsIn (w : Bytes) :
    Dec.FailsIn [.truncatedBuffer, .bcdInvalidNibble] (readLongHeader w) :=
  (readSaLh_failsIn w).bind fun ⟨_, w⟩ =>
    ((readShortHeader_failsIn w).mono (by decide)).bind fun _ => Dec.failsIn_ok _

theorem vdsKey_failsIn (m : KeyMap) (v : Vds) :
    Dec.FailsIn [.missingLinkLayerAddress, .missingKey] (vdsKey m v) := by
  unfold vdsKey
  split
  case h_1 => exact Dec.failsIn_error (by decide)
  case h_2 =>
    split
    case h_1 => exact Dec.failsIn_error (by decide)
    case h_2 => exact Dec.failsIn_ok _

/-- The ciphertext is all that is left of the window, so only its block count can be wrong; the check reads two bytes of the
plaintext (R294). -/
theorem decryptPayload_failsIn (key iv : Bytes) (blocks : Nat) (w : Bytes) :
    Dec.FailsIn [.blockCountExceedsPayload, .truncatedBuffer, .wrongKey] (decryptPayload key iv blocks w) := by
  have decrypted : Dec.FailsIn [.blockCountExceedsPayload] (decryptWindow key iv w 0 w.length blocks) := by
    intro c hc
    obtain ⟨hpast, -⟩ | ⟨-, -, rfl⟩ := decryptWindow_error.mp hc
    · omega
    · decide
  refine (decrypted.mono (by decide)).bind fun m => ((memRead_failsIn 2 m).mono (by decide)).bind fun ⟨chk, _⟩ => ?_
  dsimp only
  split
  · exact Dec.failsIn_ok _
  · exact Dec.failsIn_error (by decide)

/-! ## The branches of the CI dispatch -/

/-- The record list, wherever in VDS.DEC it is read. -/
theorem readRecords_failsIn_vdsCauses (p : Params) (w : Bytes) : Dec.FailsIn vdsCauses (readRecords p w) :=
  (readRecords_failsIn p w).mono (by decide)

theorem vdsLong_failsIn (p : Params) (v : Vds) (w : Bytes) : Dec.FailsIn vdsCauses (vdsLong p v w) := by
  refine ((readLongHeader_failsIn w).mono (by decide)).bind fun ⟨_, h, w⟩ => ?_
  dsimp only
  split
  · exact Dec.failsIn_error (by decide)
  · exact (readRecords_failsIn_vdsCauses p w).bind fun _ => Dec.failsIn_ok _

theorem vdsNone_failsIn (p : Params) (v : Vds) (w : Bytes) : Dec.FailsIn vdsCauses (vdsNone p v w) :=
  (readRecords_failsIn_vdsCauses p w).bind fun _ => Dec.failsIn_ok _

theorem vdsShort_failsIn (p : Params) (m : KeyMap) (v : Vds) (w : Bytes) :
    Dec.FailsIn vdsCauses (vdsShort p m v w) := by
  refine ((readShortHeader_failsIn w).mono (by decide)).bind fun ⟨h, w⟩ => ?_
  dsimp only
  split
  case h_1 => exact (readRecords_failsIn_vdsCauses p w).bind fun _ => Dec.failsIn_ok _
  case h_2 =>
    exact ((vdsKey_failsIn m v).mono (by decide)).bind fun _ =>
      ((decryptPayload_failsIn _ _ _ w).mono (by decide)).bind fun plain =>
        (readRecords_failsIn_vdsCauses p plain).bind fun _ => Dec.failsIn_ok _
  case h_3 => exact Dec.failsIn_error (by decide)

theorem vdsByCi_failsIn (p : Params) (m : KeyMap) (v : Vds) (ci : Byte) (w : Bytes) :
    Dec.FailsIn vdsCauses (vdsByCi p m v ci w) := by
  unfold vdsByCi
  cases ciReceived ci with
  | longHeader => exact vdsLong_failsIn p v w
  | noHeader => exact vdsNone_failsIn p v w
  | shortHeader => exact vdsShort_failsIn p m v w
  | manufacturerSpecific => exact Dec.failsIn_error (by decide)
  | unsupported => exact Dec.failsIn_error (by decide)

/-- VDS.DEC fails with the causes R281 lists and no other. -/
theorem vdsBody_failsIn (p : Params) (m : KeyMap) (v : Vds) : Dec.FailsIn vdsCauses (vdsBody p m v) :=
  ((window_failsIn v.buf v.off v.len).mono (by decide)).bind fun w =>
    ((memReadByte_failsIn w).mono (by decide)).bind fun ⟨ci, w⟩ =>
      (vdsByCi_failsIn p m v.fresh ci w).bind fun _ => Dec.failsIn_ok _

/-- The causes of VDS.DEC have one class (R306, R463). -/
theorem failureClass_of_mem_vdsCauses {c : Cause} (h : c ∈ vdsCauses) : c.failureClass = .decodingException := by
  revert c
  decide

end Sys2Proof.Machine

/-! VDS.DEC: its endings, and the CI values it does not decode (44_vds.md R281, R284, R285, R306). -/

namespace Sys2Proof.Machine

/-- The dispatch of VDS.DEC. -/
theorem exec_vdsDec (n : Nat) (s : State) : exec (.vdsDec n) s = execVdsDec n s := rfl

/-! ## The two endings of the decode of a Raw object -/

section
variable {n : Nat} {v : Vds} {s : State}

/-- A body that has a value replaces the object and answers its reference (R281). -/
theorem execVdsDec_of_body_ok {t : Vds} (hv : s.vdss[n]? = some v) (hraw : v.phase = .raw)
    (h : vdsBody s.params s.keymap v = .ok t) : execVdsDec n s = .next ((s.setVds n t).respond (.vds n)) := by
  simp [execVdsDec, objAt_ok.mpr hv, hraw, h]

/-- A body that fails leaves the object Failed and raises its own cause (R306). -/
theorem execVdsDec_of_body_error {c : Cause} (hv : s.vdss[n]? = some v) (hraw : v.phase = .raw)
    (h : vdsBody s.params s.keymap v = .error c) : execVdsDec n s = .next ((s.setVds n v.fail).raise c) := by
  simp [execVdsDec, objAt_ok.mpr hv, hraw, h]

end

/-- Settles O37: by the ending of the body; what a decode keeps is `vdsBody_ok`, what it fails with `vdsBody_failsIn`. -/
theorem vdsDecIsAllOrNothing : Obligations.VdsDecIsAllOrNothing := by
  intro n v s hv hraw
  rw [exec_vdsDec]
  cases hbody : vdsBody s.params s.keymap v with
  | ok t =>
    obtain ⟨hphase, hbuf, hoff, hlen, haddr, hkeys, -⟩ := vdsBody_ok hbody
    exact .inl ⟨t, rfl, execVdsDec_of_body_ok hv hraw hbody, hphase, hbuf, hoff, hlen, haddr, hkeys⟩
  | error c =>
    have hclass := failureClass_of_mem_vdsCauses (vdsBody_failsIn s.params s.keymap v c hbody)
    exact .inr ⟨c, rfl, execVdsDec_of_body_error hv hraw hbody, hclass⟩

/-! ## The CI byte -/

theorem ciReceived_of_manufacturer {ci : Byte} (h : 0xA0 ≤ ci.toNat ∧ ci.toNat ≤ 0xB7) :
    ciReceived ci = .manufacturerSpecific := by
  have hlong : ci ≠ 0x72#8 := by rintro rfl; exact absurd h (by decide)
  have hnone : ci ≠ 0x78#8 := by rintro rfl; exact absurd h (by decide)
  have hshort : ci ≠ 0x7A#8 := by rintro rfl; exact absurd h (by decide)
  rw [ciReceived, if_neg hlong, if_neg hnone, if_neg hshort, if_pos h]

theorem ciReceived_of_other {ci : Byte} (hlong : ci ≠ 0x72#8) (hnone : ci ≠ 0x78#8) (hshort : ci ≠ 0x7A#8)
    (h : ci.toNat < 0xA0 ∨ 0xB7 < ci.toNat) : ciReceived ci = .unsupported := by
  rw [ciReceived, if_neg hlong, if_neg hnone, if_neg hshort, if_neg (by omega)]

section
variable {v : Vds} {front w back : Bytes} {ci : Byte}

/-- A window inside its buffer that starts with a CI byte: the decode is what the dispatch on it makes of the temporaries
and the bytes after it, and the two fields written last (R281). -/
theorem vdsBody_of_window (hbuf : v.buf = front ++ ci :: w ++ back) (hoff : v.off = front.length)
    (hlen : v.len = 1 + w.length) (p : Params) (m : KeyMap) :
    vdsBody p m v = (do
      let t ← vdsByCi p m v.fresh ci w
      .ok { t with ci := ci, phase := .decoded }) := by
  have hwin : window v.buf v.off v.len = .ok (ci :: w) := by
    have hlen' : v.len = (ci :: w).length := by rw [hlen, List.length_cons, Nat.add_comm]
    rw [hbuf, hoff, hlen', window_between]
  rw [vdsBody, hwin]
  rfl

/-- A failure of the dispatch is the decode's. -/
theorem vdsBody_error_of_byCi (hbuf : v.buf = front ++ ci :: w ++ back) (hoff : v.off = front.length)
    (hlen : v.len = 1 + w.length) {p : Params} {m : KeyMap} {c : Cause}
    (h : vdsByCi p m v.fresh ci w = .error c) : vdsBody p m v = .error c := by
  rw [vdsBody_of_window hbuf hoff hlen]
  exact Dec.bind_error.mpr (.inl h)

end

theorem vdsByCi_of_manufacturer {ci : Byte} (h : ciReceived ci = .manufacturerSpecific) (p : Params) (m : KeyMap)
    (v : Vds) (w : Bytes) : vdsByCi p m v ci w = .error .manufacturerSpecificCI := by
  rw [vdsByCi, h]

theorem vdsByCi_of_unsupported {ci : Byte} (h : ciReceived ci = .unsupported) (p : Params) (m : KeyMap)
    (v : Vds) (w : Bytes) : vdsByCi p m v ci w = .error .unsupportedCI := by
  rw [vdsByCi, h]

/-- Settles O36: by what the CI value is; in both cases the dispatch fails whatever follows the CI byte. -/
theorem otherCiValuesFail : Obligations.OtherCiValuesFail := by
  intro n v front w back ci s hv hraw hbuf hoff hlen
  have fails {c : Cause} (h : vdsByCi s.params s.keymap v.fresh ci w = .error c) :
      exec (.vdsDec n) s = .next ((s.setVds n v.fail).raise c) := by
    rw [exec_vdsDec]
    exact execVdsDec_of_body_error hv hraw (vdsBody_error_of_byCi hbuf hoff hlen h)
  refine ⟨fun hrange => ?manufacturer, fun hlong hnone hshort hrange => ?other⟩
  case manufacturer => exact fails (vdsByCi_of_manufacturer (ciReceived_of_manufacturer hrange) _ _ _ _)
  case other => exact fails (vdsByCi_of_unsupported (ciReceived_of_other hlong hnone hshort hrange) _ _ _ _)

end Sys2Proof.Machine

/-! Building the wired frames (45_wired_frame.md R321, R322, R330). -/

namespace Sys2Proof.Machine

/-! ## The checksum as a sum -/

theorem byteSum_eq_sum (bs : Bytes) : byteSum bs = (bs.map BitVec.toNat).sum := by
  induction bs with
  | nil => rfl
  | cons b bs ih => rw [byteSum, ih, List.map_cons, List.sum_cons]

theorem checksum_toNat (bs : Bytes) : (checksum bs).toNat = (bs.map BitVec.toNat).sum % 256 := by
  rw [checksum, BitVec.toNat_ofNat, byteSum_eq_sum]

/-- The sum of a short frame drops the carry, as the addition of bytes does (R321). -/
theorem checksum_pair (c a : Byte) : checksum [c, a] = c + a :=
  BitVec.eq_of_toNat_eq (by rw [checksum_toNat, BitVec.toNat_add]; rfl)

/-! ## ENC.SHORT and ENC.LONG -/

theorem encShortFrame_eq (c a : Byte) : encShortFrame c a = [0x10#8, c, a, c + a, 0x16#8] := by
  rw [encShortFrame, checksum_pair]

/-- The bound of R322 is met by 252 data bytes. -/
theorem encLongOp_of_le {data : Bytes} (h : data.length ≤ 252) (c a ci : Byte) :
    encLongOp c a ci data = .ok (encLongFrame c a ci data) :=
  if_neg (Nat.not_lt.mpr h)

theorem encLongOp_of_lt {data : Bytes} (h : 252 < data.length) (c a ci : Byte) :
    encLongOp c a ci data = .error (.refused .payloadTooLong) :=
  if_pos h

theorem exec_encShort (c a : Byte) (s : State) : exec (.encShort c a) s = execEncShort c a s := rfl

theorem exec_encLong (c a ci : Byte) (data : Bytes) (s : State) :
    exec (.encLong c a ci data) s = execEncLong c a ci data s := rfl

theorem execEncLong_of_le {data : Bytes} (h : data.length ≤ 252) (c a ci : Byte) (s : State) :
    execEncLong c a ci data s = .next (s.respond (.bytes (encLongFrame c a ci data))) := by
  rw [execEncLong, encLongOp_of_le h]
  rfl

theorem execEncLong_of_lt {data : Bytes} (h : 252 < data.length) (c a ci : Byte) (s : State) :
    execEncLong c a ci data s = .refused .payloadTooLong := by
  rw [execEncLong, encLongOp_of_lt h]
  rfl

/-- Settles O41: the bound on the data makes `L` fit its byte, and the checksum byte is the sum modulo 256. -/
theorem encodersBuildTheFrames : Obligations.EncodersBuildTheFrames := by
  refine ⟨fun c a s => ?short, fun c a ci data s => ⟨fun hfits => ?long, fun hover => ?tooLong⟩⟩
  case short => rw [exec_encShort, execEncShort, encShortFrame_eq]
  case long =>
    have hlen : (BitVec.ofNat 8 (3 + data.length)).toNat = 3 + data.length := by
      rw [BitVec.toNat_ofNat]
      exact Nat.mod_eq_of_lt (by omega)
    have hsum : (checksum (c :: a :: ci :: data)).toNat =
        (c.toNat + a.toNat + ci.toNat + (data.map BitVec.toNat).sum) % 256 := by
      simp only [checksum_toNat, List.map_cons, List.sum_cons, Nat.add_assoc]
    refine ⟨encLongFrame c a ci data, _, _, hlen, hsum, rfl, ?_⟩
    rw [exec_encLong, execEncLong_of_le hfits]
  case tooLong => rw [exec_encLong, execEncLong_of_lt hover]

end Sys2Proof.Machine

/-! LNK.SCANSEL as TX.FRAME and then RX.FRAME (45_wired_frame.md R336, R340, R357). -/

namespace Sys2Proof.Machine

/-! ## What a receive does not look at

A link operation receives while LINK is AwaitingResponse; RX.FRAME on its own receives while LINK is Idle and after the
response of TX.FRAME. A receive reads neither field, so both take the same frame and leave the same transport. -/

/-- LINK and the CMD response replaced. -/
def State.setLinkResp (x : LinkState) (y : Option Response) (s : State) : State := { s with link := x, resp := y }

section
variable (x : LinkState) (y : Option Response)

theorem tpReadByte_setLinkResp (s : State) :
    (s.setLinkResp x y).tpReadByte = s.tpReadByte.map id (State.setLinkResp x y) := rfl

theorem tpReadExactly_setLinkResp (n : Nat) (s : State) :
    (s.setLinkResp x y).tpReadExactly n = (s.tpReadExactly n).map id (State.setLinkResp x y) := by
  induction n generalizing s with
  | zero => rfl
  | succ n ih =>
    rw [State.tpReadExactly, State.tpReadExactly, tpReadByte_setLinkResp]
    match s.tpReadByte with
    | (none, t) => rfl
    | (some b, t) =>
      simp only [Prod.map_apply, id_eq]
      rw [ih t]
      rfl

theorem rxOnce_setLinkResp (s : State) :
    rxOnce (s.setLinkResp x y) = (rxOnce s).map id (State.setLinkResp x y) := by
  rw [rxOnce, rxOnce, tpReadByte_setLinkResp]
  match s.tpReadByte with
  | (none, t) => rfl
  | (some b, t) =>
    simp only [Prod.map_apply, id_eq, tpReadByte_setLinkResp]
    split
    · rfl
    · split
      · rfl
      · match t.tpReadByte with
        | (none, u) => rfl
        | (some l, u) =>
          simp only [Prod.map_apply, id_eq, tpReadExactly_setLinkResp]
          match u.tpReadExactly (l.toNat + 4) with
          | (bs, v) =>
            simp only [Prod.map_apply, id_eq]
            split
            · rfl
            · have hparams : (v.setLinkResp x y).params = v.params := rfl
              rw [hparams]
              cases checkLongFrame v.params.rxEnforceIntegrity l (b :: l :: bs) <;> rfl

theorem rxLoop_setLinkResp (fuel : Nat) (s : State) :
    rxLoop fuel (s.setLinkResp x y) = (rxLoop fuel s).map id (State.setLinkResp x y) := by
  induction fuel generalizing s with
  | zero => rfl
  | succ fuel ih =>
    rw [rxLoop, rxLoop, rxOnce_setLinkResp]
    match rxOnce s with
    | (.error c, t) => rfl
    | (.ok (fr, fb), t) =>
      have hlast : (t.setLinkResp x y).lastTx = t.lastTx := rfl
      simp only [Prod.map_apply, id_eq, hlast]
      split
      · exact ih t
      · rfl

theorem rxFrame_setLinkResp (s : State) :
    rxFrame (s.setLinkResp x y) = (rxFrame s).map id (State.setLinkResp x y) :=
  rxLoop_setLinkResp x y (s.tpIn.length + 1) s

end

/-! ## The first event of a receive -/

section
variable {s : State} {b : Byte} {more : List TpEvent}

/-- Nothing arrives: no response (R340). -/
theorem rxFrame_of_silent (h : Silent s.tpIn) : (rxFrame s).1 = .error .noResponse := by
  have hread : s.tpReadByte.1 = none := by
    obtain hnil | ⟨es, htimeout⟩ := h
    · rw [State.tpReadByte, hnil]; rfl
    · rw [State.tpReadByte, htimeout]; rfl
  have honce : rxOnce s = (.error .noResponse, s.tpReadByte.2) := by
    rw [rxOnce, ← Prod.mk.eta (p := s.tpReadByte), hread]
  rw [rxFrame_eq, honce]

/-- A single character, unless it were an echo, is the frame (R340). -/
theorem rxFrame_of_singleCharacter (h : s.tpIn = .byte 0xE5#8 :: more) (hlast : s.lastTx ≠ some [0xE5#8]) :
    rxFrame s = (.ok .singleCharacter, { s with tpIn := more }) := by
  have honce : rxOnce s = (.ok (.singleCharacter, [0xE5#8]), { s with tpIn := more }) := by
    rw [rxOnce, tpReadByte_delivered h]; rfl
  rw [rxFrame_eq, honce]
  exact if_neg hlast

/-- Another lead byte is taken and nothing after it (R340, 70_reset_and_hazards.md R534). -/
theorem rxFrame_of_unexpectedByte (h : s.tpIn = .byte b :: more) (hchar : b ≠ 0xE5#8) (hlong : b ≠ 0x68#8) :
    rxFrame s = (.error .unexpectedByte, { s with tpIn := more }) := by
  have honce : rxOnce s = (.error .unexpectedByte, { s with tpIn := more }) := by
    rw [rxOnce, tpReadByte_delivered h]
    simp only [if_neg hchar, if_pos hlong]
  rw [rxFrame_eq, honce]

/-- A lead byte that starts no long frame: something arrived, and only that byte is taken. -/
theorem rxFrame_of_lead_ne_long (h : s.tpIn = .byte b :: more) (hlong : b ≠ 0x68#8)
    (hlast : s.lastTx ≠ some [0xE5#8]) :
    (rxFrame s).1 ≠ .error .noResponse ∧ (rxFrame s).2.tpIn = more := by
  by_cases hchar : b = 0xE5#8
  · subst hchar
    rw [rxFrame_of_singleCharacter h hlast]
    exact ⟨nofun, rfl⟩
  · rw [rxFrame_of_unexpectedByte h hchar hlong]
    exact ⟨nofun, rfl⟩

end

/-! ## The endings of the three operations -/

/-- The CMD response to a receive: its frame or its exception (R340). -/
def State.answerReceive (r : Dec WiredFrame) (s : State) : State :=
  match r with
  | .ok fr => s.respond (.received fr)
  | .error c => s.raise c

@[simp] theorem State.answerReceive_tpIn (r : Dec WiredFrame) (s : State) : (s.answerReceive r).tpIn = s.tpIn := by
  cases r <;> rfl

/-- The response says NoResponse exactly if that is the receive's ending. -/
theorem State.answerReceive_resp_noResponse {r : Dec WiredFrame} {s : State} :
    (s.answerReceive r).resp = some (.exception .noResponse) ↔ r = .error .noResponse := by
  cases r <;> simp [State.answerReceive]

/-- LINK and the CMD response replaced hide how a receive was answered. -/
@[simp] theorem State.answerReceive_setLinkResp (x : LinkState) (y : Option Response) (r : Dec WiredFrame) (s : State) :
    (s.answerReceive r).setLinkResp x y = s.setLinkResp x y := by
  cases r <;> rfl

/-- What LNK.SCANSEL answers to the ending of its receive (R357). -/
def anythingArrived : Dec WiredFrame → Bool
  | .error .noResponse => false
  | _ => true

theorem anythingArrived_eq_false {r : Dec WiredFrame} : anythingArrived r = false ↔ r = .error .noResponse := by
  unfold anythingArrived
  split
  case h_1 => exact ⟨fun _ => rfl, fun _ => rfl⟩
  case h_2 h => exact ⟨nofun, fun hr => absurd hr h⟩

/-- The exchange of LNK.SCANSEL, by its receive: the answer, and LINK Idle (R357). -/
theorem scanselExchange_eq (f : Bytes) (s : State) :
    scanselExchange f s = (anythingArrived (exchange f id s).1, (exchange f id s).2.setLink .idle) := by
  rw [scanselExchange]
  match exchange f id s with
  | (.error c, t) => cases c <;> rfl
  | (.ok fr, t) => rfl

theorem exec_txFrame (f : Bytes) (s : State) : exec (.txFrame f) s = execTxFrame f s := rfl
theorem exec_rxFrame (t : Nat) (s : State) : exec (.rxFrame t) s = execRxFrame t s := rfl
theorem exec_lnkScansel (wild : Bytes) (t : Nat) (s : State) :
    exec (.lnkScansel wild t) s = execLnkScansel wild t s := rfl

/-- The exchange of a link operation is RX.FRAME's receive after TX.FRAME, but for LINK and the CMD response. -/
theorem exchange_eq_rxFrame_transmit (f : Bytes) (s : State) :
    exchange f id s =
      (rxFrame ((s.transmit f).respond .none)).map id (State.setLinkResp .awaitingResponse s.resp) :=
  rxFrame_setLinkResp .awaitingResponse s.resp ((s.transmit f).respond .none)

section
variable {s : State}

theorem execTxFrame_of_idle {f : Bytes} (hlink : needLink s = .ok ()) (hf : f.head? ≠ some 0xE5#8) :
    execTxFrame f s = .next ((s.transmit f).respond .none) := by
  rw [execTxFrame, hlink, needSendable_ok.mpr hf]
  rfl

theorem execRxFrame_of_idle (hlink : needLink s = .ok ()) (t : Nat) :
    execRxFrame t s = .next ((rxFrame s).2.answerReceive (rxFrame s).1) := by
  rw [execRxFrame, hlink, proceed_ok]
  match rxFrame s with
  | (.ok _, _) => rfl
  | (.error _, _) => rfl

theorem execLnkScansel_of_idle {wild : Bytes} (hlink : needLink s = .ok ()) (hwild : wild.length ≤ 252) (t : Nat) :
    execLnkScansel wild t s =
      let x := scanselExchange (encLongFrame s.params.cSndUdSel 0xFD#8 0x52#8 wild) s
      .next (x.2.respond (.bit x.1)) := by
  rw [execLnkScansel, hlink, selectFrame, encLongOp_of_le hwild]
  rfl

end

/-- Settles O50: the exchange of LNK.SCANSEL is the receive of RX.FRAME after TX.FRAME, and its answer is fixed by the ending
of that receive. -/
theorem scanselAnswersWhetherAnythingArrived : Obligations.ScanselAnswersWhetherAnythingArrived := by
  intro wild t s hkind hidle hwild
  let f := encLongFrame s.params.cSndUdSel 0xFD#8 0x52#8 wild
  let m := (s.transmit f).respond .none
  have hsend : f.head? ≠ some 0xE5#8 := by rw [encLongFrame_head]; decide
  have hecho : m.lastTx ≠ some [0xE5#8] := fun h => hsend (by rw [Option.some.inj h]; rfl)
  have hlink : needLink s = .ok () := needLink_ok.mpr ⟨hkind, hidle⟩
  have hlink' : needLink m = .ok () := needLink_ok.mpr ⟨hkind, hidle⟩
  refine ⟨m, (rxFrame m).2.answerReceive (rxFrame m).1, anythingArrived (rxFrame m).1,
    ?transmitted, ?received, ?answered, ?zero, fun hsilent => ?silent, fun b more hbyte hlong => ?collision⟩
  case transmitted => rw [exec_txFrame, execTxFrame_of_idle hlink hsend]
  case received => rw [exec_rxFrame, execRxFrame_of_idle hlink']
  case answered =>
    have hend (y : Option Response) :
        { (rxFrame m).2.answerReceive (rxFrame m).1 with resp := y, link := .idle } =
          (rxFrame m).2.setLinkResp .idle y :=
      State.answerReceive_setLinkResp .idle y (rxFrame m).1 (rxFrame m).2
    rw [exec_lnkScansel, execLnkScansel_of_idle hlink (by omega), scanselExchange_eq, exchange_eq_rxFrame_transmit, hend]
    rfl
  case zero => rw [anythingArrived_eq_false, State.answerReceive_resp_noResponse]
  case silent => exact anythingArrived_eq_false.mpr (rxFrame_of_silent hsilent)
  case collision =>
    obtain ⟨hsome, hrest⟩ := rxFrame_of_lead_ne_long (s := m) hbyte hlong hecho
    refine ⟨Bool.eq_true_of_not_eq_false fun h => hsome (anythingArrived_eq_false.mp h), ?_⟩
    rw [State.answerReceive_tpIn, hrest]

end Sys2Proof.Machine

/-! What a failure keeps: KEYMAP, FCB but for the toggle of LNK.READ, and the search of the scanner (47_keys_fcb.md R410,
60_exceptions.md R490). -/

namespace Sys2Proof.Machine

/-! ## One frame count bit toggled (R24) -/

theorem fcbGet_fcbToggle_self (f : BitVec 256) (a : Byte) : fcbGet (fcbToggle f a) a = !fcbGet f a := by
  have ha : a.toNat < 256 := a.isLt
  simp [fcbGet, fcbToggle, ha]

theorem fcbGet_fcbToggle_of_ne {a b : Byte} (h : b ≠ a) (f : BitVec 256) : fcbGet (fcbToggle f a) b = fcbGet f b := by
  have hne : b.toNat ≠ a.toNat := fun hab => h (BitVec.eq_of_toNat_eq hab)
  have hbit : (1#256 <<< a.toNat).getLsbD b.toNat = false := by
    simp only [BitVec.getLsbD_shiftLeft, BitVec.getLsbD_one, Bool.and_eq_false_iff, Bool.not_eq_false', decide_eq_true_eq,
      decide_eq_false_iff_not]
    omega
  rw [fcbGet, fcbGet, fcbToggle, BitVec.getLsbD_xor, hbit, Bool.xor_false]

/-! ## The tables kept -/

/-- `t` has the tables of `s`, and the position, mask and found addresses of its scanner. -/
structure State.TablesKept (s t : State) : Prop where
  keymap : t.keymap = s.keymap
  fcb : t.fcb = s.fcb
  pos : t.scanner.pos = s.scanner.pos
  value : t.scanner.value = s.scanner.value
  found : t.scanner.found = s.scanner.found

section
variable {s t u : State}

theorem State.TablesKept.trans (h : State.TablesKept s t) (h' : State.TablesKept t u) : State.TablesKept s u :=
  ⟨h'.keymap.trans h.keymap, h'.fcb.trans h.fcb, h'.pos.trans h.pos, h'.value.trans h.value, h'.found.trans h.found⟩

/-- A receive keeps them: an abort that arrives meanwhile writes `abortReq` only (R482). -/
theorem State.Received.tablesKept (h : State.Received s t) : State.TablesKept s t := by
  obtain ⟨-, -, -, hfcb, hkeymap, -⟩ := h.fields
  obtain ⟨hpos, hvalue, hfound, -⟩ := h.scan
  exact ⟨hkeymap, hfcb, hpos, hvalue, hfound⟩

theorem State.tablesKept_setLink (x : LinkState) (s : State) : State.TablesKept s (s.setLink x) :=
  ⟨rfl, rfl, rfl, rfl, rfl⟩

theorem State.tablesKept_raise (c : Cause) (s : State) : State.TablesKept s (s.raise c) := ⟨rfl, rfl, rfl, rfl, rfl⟩

theorem State.tablesKept_setVds (n : Nat) (v : Vds) (s : State) : State.TablesKept s (s.setVds n v) :=
  ⟨rfl, rfl, rfl, rfl, rfl⟩

theorem State.tablesKept_addVds (v : Vds) (s : State) : State.TablesKept s (s.addVds v) := ⟨rfl, rfl, rfl, rfl, rfl⟩

theorem State.tablesKept_setMsg (n : Nat) (m : WlMessage) (s : State) : State.TablesKept s (s.setMsg n m) :=
  ⟨rfl, rfl, rfl, rfl, rfl⟩

/-- What stands between the start of a link operation and its receive: the frame sent, LINK AwaitingResponse. -/
theorem State.tablesKept_transmit_setLink (f : Bytes) (x : LinkState) (s : State) :
    State.TablesKept s ((s.transmit f).setLink x) := ⟨rfl, rfl, rfl, rfl, rfl⟩

end

/-! ## Operations whose failures keep the tables -/

/-- If the operation ends in an exception, its state has the tables of `s`. -/
def FailureKeeps (s : State) (o : Out) : Prop :=
  ∀ ⦃t : State⦄ ⦃c : Cause⦄, o = .next t → t.resp = some (.exception c) → State.TablesKept s t

section
variable {s : State}

/-- A result is no failure. -/
theorem FailureKeeps.respond (u : State) (v : Value) : FailureKeeps s (.next (u.respond v)) := by
  rintro t c ⟨⟩ hc
  cases hc

theorem FailureKeeps.raise {u : State} (h : State.TablesKept s u) (c : Cause) : FailureKeeps s (.next (u.raise c)) := by
  rintro t c' ⟨⟩ -
  exact h.trans (State.tablesKept_raise c u)

theorem FailureKeeps.refused (x : Refusal) : FailureKeeps s (.refused x) := fun _ _ h => nomatch h

theorem FailureKeeps.fault (x : Fault) : FailureKeeps s (.fault x) := fun _ _ h => nomatch h

/-- An exception of the first part is taken in the state the operation started in. -/
theorem FailureKeeps.proceed {α : Type} (r : Run α) {k : α → Out} (hk : ∀ a, FailureKeeps s (k a)) :
    FailureKeeps s (proceed r k s) := by
  intro t c h hc
  obtain ⟨a, -, hnext⟩ | ⟨c', -, rfl⟩ := proceed_next.mp h
  · exact hk a hnext hc
  · exact State.tablesKept_raise c' s

/-- An operation whose last part writes the state and answers. -/
theorem FailureKeeps.finish {α : Type} (r : Run α) (g : α → State) (v : α → Value) :
    FailureKeeps s (finish r (fun a => (g a).respond (v a)) s) :=
  FailureKeeps.proceed r fun a => .respond (g a) (v a)

/-- An operation that only answers. -/
theorem FailureKeeps.conclude (r : Run Value) : FailureKeeps s (conclude r s) :=
  FailureKeeps.finish r (fun _ => s) id

/-- An operation of one kind of session only. -/
theorem FailureKeeps.respond_or_fault {p : Prop} [Decidable p] (u : State) (v : Value) (x : Fault) :
    FailureKeeps s (if p then .next (u.respond v) else .fault x) := by
  split
  · exact .respond u v
  · exact .fault x

/-- An acknowledged exchange writes a table on the acknowledgement only (45_wired_frame.md R351 to R356). -/
theorem ackExchange_failureKeeps (f : Bytes) (onAck : State → State) (s : State) :
    FailureKeeps s (ackExchange f onAck s) := by
  obtain ⟨t, hreceived, hack | ⟨c, hfail⟩⟩ := ackExchange_spec f onAck s
  · rw [hack]
    exact .respond _ _
  · rw [hfail]
    exact .raise (((s.tablesKept_transmit_setLink f _).trans hreceived.tablesKept).trans (t.tablesKept_setLink .idle)) c

theorem ackOp_failureKeeps (frame : Run Bytes) (onAck : State → State) (s : State) :
    FailureKeeps s (ackOp frame onAck s) :=
  .proceed _ fun f => ackExchange_failureKeeps f onAck s

theorem execRxFrame_failureKeeps (τ : Nat) (s : State) : FailureKeeps s (execRxFrame τ s) := by
  refine .proceed _ fun _ => ?_
  have hkept := (rxFrame_received s).tablesKept
  match rxFrame s, hkept with
  | (.ok fr, t), _ => exact .respond t _
  | (.error c, t), hkept => exact .raise hkept c

theorem execVdsDec_failureKeeps (n : Nat) (s : State) : FailureKeeps s (execVdsDec n s) := by
  refine .proceed _ fun v => ?_
  split
  · exact .refused _
  · split
    · exact .respond _ _
    · exact .raise (s.tablesKept_setVds n _) _

theorem execWlDec_failureKeeps (n : Nat) (s : State) : FailureKeeps s (execWlDec n s) := by
  refine .proceed _ fun m => ?_
  split
  · exact .refused _
  · split
    · exact .respond _ _
    · exact .raise (s.tablesKept_setMsg n _) _

theorem deepDecode_failureKeeps (n : Nat) (m : WlMessage) (s : State) : FailureKeeps s (deepDecode n m s) := by
  unfold deepDecode
  extract_lets m'
  split
  · exact .respond _ _
  · exact .raise ((s.tablesKept_addVds _).trans (State.tablesKept_setMsg n _ _)) _

theorem execWlDeep_failureKeeps (n : Nat) (s : State) : FailureKeeps s (execWlDeep n s) := by
  refine .proceed _ fun m => ?_
  split
  · exact .refused _
  · split
    · exact deepDecode_failureKeeps n m s
    · split
      · exact deepDecode_failureKeeps n _ s
      · exact .raise (s.tablesKept_setMsg n _) _

/-! ## LNK.READ -/

/-- A link operation that may not start is refused or faults; it raises nothing (60_exceptions.md R472). -/
theorem needLink_ne_raised (s : State) (c : Cause) : needLink s ≠ .error (.raised c) := by
  intro h
  obtain ⟨h, -⟩ | ⟨h, -⟩ := needLink_error h <;> cases h

/-- A failure of LNK.READ comes after its toggle, and keeps the tables as the toggle left them (R350). -/
theorem execLnkRead_failureKeeps (a : Byte) (τ : Nat) (s : State) :
    FailureKeeps (s.setFcb (fcbToggle s.fcb a)) (execLnkRead a τ s) := by
  intro t c h hc
  obtain ⟨-, -, hnext⟩ | ⟨c', hraised, -⟩ := proceed_next.mp h
  · obtain ⟨u, hreceived, hend⟩ := readExchange_spec a s
    have hsent : State.TablesKept (s.setFcb (fcbToggle s.fcb a))
        (((s.transmit (encShortFrame (reqUd2Control (fcbGet s.fcb a)) a)).setLink .awaitingResponse).setFcb
          (fcbToggle s.fcb a)) := ⟨rfl, rfl, rfl, rfl, rfl⟩
    have hkept := (hsent.trans hreceived.tablesKept).trans (u.tablesKept_setLink .idle)
    rw [← hend] at hkept
    match readExchange a s, hkept, hnext with
    | (.ok v, w), _, hnext => exact FailureKeeps.respond _ _ hnext hc
    | (.error c', w), hkept, hnext => exact FailureKeeps.raise hkept c' hnext hc
  · exact absurd hraised (needLink_ne_raised s c')

/-! ## Every operation -/

/-- The failures of every operation but LNK.READ keep the tables: most fail before they write anything, the decoders write
only the object that failed, and a link operation writes FCB on its acknowledgement only. -/
theorem exec_failureKeeps {i : Instr} (hread : ∀ a τ, i ≠ .lnkRead a τ) (s : State) : FailureKeeps s (exec i s) := by
  cases i with
  | lnkRead a τ => exact absurd rfl (hread a τ)
  | sesOpen | manDec | encShort | chkSum | chkVerify | scanAbort | scanPack | fAck | fMan | special | fIv | fWild | cField
  | rspUdTest | reqUd2 | aField | ciField => exact .respond _ _
  | fcbGet | wlNew => exact .respond_or_fault _ _ _
  | bcdStr | bcdInt | bcdLong | bcdEnc | manEnc | saRaw | saEq | saCmp | drScale | aesDecrypt | aesEncrypt | encLong
  | decFrame | decShort | maskFlip | fShort | fLong | fWl | fSaLh | fSaLl | fSh | fLh | fDib | fVib | fData | lvar | fBcd
  | leadByte => exact .conclude _
  | keyAdd | keyDel | keyGet | bcdDec | saLh | saLl | saBuild | drDec | vdsNew | txFrame | scanInit | scanStep | scanAdv
  | scanNarrow | scanRun => exact .finish _ _ _
  | lnkScansel => exact .proceed _ fun _ => .respond _ _
  | lnkWrite | lnkReset | lnkSelect | lnkDeselect | lnkSelrd | lnkRstrd => exact ackOp_failureKeeps _ _ s
  | rxFrame τ => exact execRxFrame_failureKeeps τ s
  | vdsDec n => exact execVdsDec_failureKeeps n s
  | wlDec n => exact execWlDec_failureKeeps n s
  | wlDeep n => exact execWlDeep_failureKeeps n s

end

/-- Settles O10: a failure of LNK.READ keeps the tables as its toggle left them, which moves one bit of FCB; the failures of
every other operation keep them as they were. -/
theorem tablesSurviveEveryFailure : Obligations.TablesSurviveEveryFailure := by
  intro i s t c hexec hc
  by_cases hread : ∃ a τ, i = .lnkRead a τ
  · obtain ⟨a, τ, rfl⟩ := hread
    obtain ⟨hkeymap, hfcb, hpos, hvalue, hfound⟩ := execLnkRead_failureKeeps a τ s hexec hc
    refine ⟨hkeymap, fun hother => absurd rfl (hother a τ), ?toggle, hpos, hvalue, hfound⟩
    case toggle =>
      rintro _ _ ⟨⟩
      rw [hfcb]
      exact ⟨fcbGet_fcbToggle_self s.fcb a, fun b hb => fcbGet_fcbToggle_of_ne hb s.fcb⟩
  · have hother : ∀ a τ, i ≠ .lnkRead a τ := fun a τ h => hread ⟨a, τ, h⟩
    obtain ⟨hkeymap, hfcb, hpos, hvalue, hfound⟩ := exec_failureKeeps hother s hexec hc
    exact ⟨hkeymap, fun _ => hfcb, fun a τ h => absurd h (hother a τ), hpos, hvalue, hfound⟩

end Sys2Proof.Machine

/-! Requests as bytes: decoding undoes encoding, and what decodes is well formed (30_encoding.md R130; log 3). -/

namespace Sys2Proof

/-! ## What is encoded decodes -/

/-- The operand readers undo the writers one after another: each gives its operand back and leaves the bytes that follow. The
operands of a fixed size are read back because the request is well formed. -/
theorem decode_encode {i : Instr} (h : i.wf = true) (rest : Bytes) : decode (encode i ++ rest) = .ok (i, rest) := by
  have next {α β : Type} (a : α) (f : α → Except DecodeError β) : (Except.ok a >>= f) = f a := rfl
  cases i with
  | keyGet k => simp [encode, codeOf, operandBytes, decode, decodeOp, decodeSession, getAddrKey_put h, next]
  | bcdEnc v n =>
    have hn : 1 ≤ n := by simpa [Instr.wf] using h
    simp [encode, codeOf, operandBytes, decode, decodeOp, decodeCodec, getPos_put hn, next]
  | lnkScansel wild t =>
    have hwild : wild.length = 8 := by simpa [Instr.wf] using h
    simp [encode, codeOf, operandBytes, decode, decodeOp, decodeLink, getFixed_put hwild, next]
  | scanPack value =>
    have hvalue : value.length = 16 := by simpa [Instr.wf] using h
    simp [encode, codeOf, operandBytes, decode, decodeOp, decodeScan, getFixed_put hvalue, next]
  | fWild value =>
    have hvalue : value.length = 16 := by simpa [Instr.wf] using h
    simp [encode, codeOf, operandBytes, decode, decodeOp, decodeFormat, getFixed_put hvalue, next]
  | fIv raw accessNumber =>
    have hraw : raw.length = 8 := by simpa [Instr.wf] using h
    simp [encode, codeOf, operandBytes, decode, decodeOp, decodeFormat, getFixed_put hraw, next]
  | fData code hint buf =>
    have hcode : code.toNat < 16 := by simpa [Instr.wf] using h
    simp [encode, codeOf, operandBytes, decode, decodeOp, decodeFormat, getNibble_put hcode, next]
  | reqUd2 f => cases f <;> rfl
  | sesOpen | keyAdd | keyDel | fcbGet =>
    simp [encode, codeOf, operandBytes, decode, decodeOp, decodeSession, next]
  | bcdDec | bcdStr | bcdInt | bcdLong | manDec | manEnc | saLh | saLl | saRaw | saEq | saCmp | saBuild =>
    simp [encode, codeOf, operandBytes, decode, decodeOp, decodeCodec, next]
  | drDec | drScale | aesDecrypt | aesEncrypt | vdsNew | vdsDec =>
    simp [encode, codeOf, operandBytes, decode, decodeOp, decodeData, next]
  | encShort | encLong | chkSum | chkVerify | decFrame | decShort | txFrame | rxFrame =>
    simp [encode, codeOf, operandBytes, decode, decodeOp, decodeFrame, next]
  | lnkRead | lnkWrite | lnkReset | lnkSelect | lnkDeselect | lnkSelrd | lnkRstrd =>
    simp [encode, codeOf, operandBytes, decode, decodeOp, decodeLink, next]
  | wlNew | wlDec | wlDeep => simp [encode, codeOf, operandBytes, decode, decodeOp, decodeWireless, next]
  | scanInit | scanStep | scanAdv | scanNarrow | scanRun | scanAbort | maskFlip =>
    simp [encode, codeOf, operandBytes, decode, decodeOp, decodeScan, next]
  | fAck | fShort | fLong | fWl | fSaLh | fSaLl | fMan | fSh | fLh | fDib | fVib | lvar | special | fBcd | cField | rspUdTest
  | aField | ciField | leadByte =>
    simp [encode, codeOf, operandBytes, decode, decodeOp, decodeFormat, next]

/-! ## What decodes was read off the front -/

/-- A reader of `r`: what it gives has the property, and the bytes it leaves are the end of `r`. -/
def ReadsOff {α : Type} (d : Except DecodeError (α × Bytes)) (P : α → Prop) (r : Bytes) : Prop :=
  ∀ x rest, d = .ok (x, rest) → P x ∧ ∃ used, r = used ++ rest

section
variable {α β : Type} {P : α → Prop} {Q : β → Prop} {r : Bytes}

theorem ReadsOff.ok {x : α} (h : P x) : ReadsOff (.ok (x, r)) P r := by
  rintro x rest ⟨⟩
  exact ⟨h, [], rfl⟩

theorem ReadsOff.error (e : DecodeError) : ReadsOff (.error e) P r := fun _ _ h => nomatch h

/-- A reader after a reader: the second reads what the first leaves. -/
theorem ReadsOff.bind {d : Except DecodeError (α × Bytes)} {f : α × Bytes → Except DecodeError (β × Bytes)}
    (h : ReadsOff d P r) (hf : ∀ x r', P x → ReadsOff (f (x, r')) Q r') : ReadsOff (d >>= f) Q r := by
  intro y rest hy
  match d, h, hy with
  | .ok (x, r'), h, hy =>
    obtain ⟨hx, used, rfl⟩ := h x r' rfl
    obtain ⟨hQ, used', rfl⟩ := hf x r' hx y rest hy
    exact ⟨hQ, used ++ used', (List.append_assoc _ _ _).symm⟩

end

/-! ## The operand readers -/

/-- Nothing is asked of the operand. -/
abbrev anyOperand {α : Type} (_ : α) : Prop := True

theorem getByte_reads (r : Bytes) : ReadsOff (getByte r) anyOperand r := by
  cases r with
  | nil => exact .error _
  | cons b r =>
    rintro x rest ⟨⟩
    exact ⟨trivial, [b], rfl⟩

theorem getNat_reads (r : Bytes) : ReadsOff (getNat r) anyOperand r := by
  induction r with
  | nil => exact .error _
  | cons b r ih =>
    have hcons {d : Except DecodeError (Nat × Bytes)} (h : ReadsOff d anyOperand r) : ReadsOff d anyOperand (b :: r) := by
      intro x rest hx
      obtain ⟨-, used, rfl⟩ := h x rest hx
      exact ⟨trivial, b :: used, rfl⟩
    rw [getNat]
    split
    · exact hcons (.ok trivial)
    · exact hcons (ih.bind fun _ r _ => .ok trivial)

theorem getPos_reads (r : Bytes) : ReadsOff (getPos r) (1 ≤ ·) r :=
  (getNat_reads r).bind fun n _ _ => .ok (Nat.le_add_left 1 n)

theorem getInt_reads (r : Bytes) : ReadsOff (getInt r) anyOperand r :=
  (getNat_reads r).bind fun _ _ _ => .ok trivial

theorem getFixed_reads (n : Nat) (r : Bytes) : ReadsOff (getFixed n r) (·.length = n) r := by
  unfold getFixed
  split
  · exact .error _
  · rintro x rest ⟨⟩
    exact ⟨List.length_take_of_le (by omega), r.take n, (List.take_append_drop n r).symm⟩

theorem getBytes_reads (r : Bytes) : ReadsOff (getBytes r) anyOperand r :=
  (getNat_reads r).bind fun n r _ x rest h => ⟨trivial, (getFixed_reads n r x rest h).2⟩

theorem getChar_reads (r : Bytes) : ReadsOff (getChar r) anyOperand r := by
  refine (getNat_reads r).bind fun n r _ => ?_
  dsimp only
  split
  · exact .ok trivial
  · exact .error _

theorem getCharsN_reads (n : Nat) (r : Bytes) : ReadsOff (getCharsN n r) anyOperand r := by
  induction n generalizing r with
  | zero => exact .ok trivial
  | succ n ih => exact (getChar_reads r).bind fun _ r _ => (ih r).bind fun _ _ _ => .ok trivial

theorem getChars_reads (r : Bytes) : ReadsOff (getChars r) anyOperand r :=
  (getNat_reads r).bind fun n r _ => getCharsN_reads n r

theorem getBool_reads (r : Bytes) : ReadsOff (getBool r) anyOperand r := by
  refine (getByte_reads r).bind fun b r _ => ?_
  dsimp only
  split
  · exact .ok trivial
  · split
    · exact .ok trivial
    · exact .error _

theorem getKind_reads (r : Bytes) : ReadsOff (getKind r) anyOperand r :=
  (getBool_reads r).bind fun _ _ _ => .ok trivial

theorem getOrder_reads (r : Bytes) : ReadsOff (getOrder r) anyOperand r :=
  (getBool_reads r).bind fun _ _ _ => .ok trivial

theorem getHint_reads (r : Bytes) : ReadsOff (getHint r) anyOperand r :=
  (getBool_reads r).bind fun _ _ _ => .ok trivial

theorem getNibble_reads (r : Bytes) : ReadsOff (getNibble r) (·.toNat < 16) r := by
  refine (getByte_reads r).bind fun b r _ => ?_
  dsimp only
  split
  · exact .ok ‹_›
  · exact .error _

theorem getSaRef_reads (r : Bytes) : ReadsOff (getSaRef r) anyOperand r := by
  refine (getByte_reads r).bind fun b r _ => (getNat_reads r).bind fun n r _ => ?_
  dsimp only
  repeat' split
  exacts [.ok trivial, .ok trivial, .ok trivial, .ok trivial, .error _]

theorem getOptSaRef_reads (r : Bytes) : ReadsOff (getOptSaRef r) anyOperand r := by
  refine (getBool_reads r).bind fun b r _ => ?_
  cases b with
  | false => exact .ok trivial
  | true => exact (getSaRef_reads r).bind fun _ _ _ => .ok trivial

theorem getRecRef_reads (r : Bytes) : ReadsOff (getRecRef r) anyOperand r := by
  refine (getBool_reads r).bind fun b r _ => (getNat_reads r).bind fun n r _ => ?_
  cases b with
  | false => exact .ok trivial
  | true => exact (getNat_reads r).bind fun _ _ _ => .ok trivial

theorem getBcdRef_reads (r : Bytes) : ReadsOff (getBcdRef r) anyOperand r := by
  refine (getByte_reads r).bind fun b r _ => ?_
  dsimp only
  repeat' split
  exacts [(getNat_reads r).bind fun _ _ _ => .ok trivial, (getSaRef_reads r).bind fun _ _ _ => .ok trivial,
    (getRecRef_reads r).bind fun _ _ _ => .ok trivial, .error _]

theorem getAddrKey_reads (r : Bytes) : ReadsOff (getAddrKey r) (fun k => (Instr.keyGet k).wf = true) r := by
  refine (getBool_reads r).bind fun b r _ => ?_
  cases b with
  | false => exact (getFixed_reads 8 r).bind fun _ _ h => .ok (beq_iff_eq.mpr h)
  | true => exact (getSaRef_reads r).bind fun _ _ _ => .ok rfl

/-! ## The request readers, by family -/

theorem decodeSession_reads (code : Byte) (r : Bytes) : ReadsOff (decodeSession code r) (fun i => i.wf = true) r := by
  unfold decodeSession
  split
  exacts [(getKind_reads r).bind fun _ r _ => (getNat_reads r).bind fun _ r _ => .ok rfl,
    (getSaRef_reads r).bind fun _ r _ => (getBytes_reads r).bind fun _ r _ => .ok rfl,
    (getSaRef_reads r).bind fun _ r _ => .ok rfl,
    (getAddrKey_reads r).bind fun _ r h => .ok h,
    (getByte_reads r).bind fun _ r _ => .ok rfl,
    .error _]

theorem decodeCodec_reads (code : Byte) (r : Bytes) : ReadsOff (decodeCodec code r) (fun i => i.wf = true) r := by
  unfold decodeCodec
  split
  exacts [(getBytes_reads r).bind fun _ r _ => .ok rfl,
    (getBcdRef_reads r).bind fun _ r _ => .ok rfl,
    (getBcdRef_reads r).bind fun _ r _ => .ok rfl,
    (getBcdRef_reads r).bind fun _ r _ => .ok rfl,
    (getInt_reads r).bind fun _ r _ => (getPos_reads r).bind fun _ r h => .ok (decide_eq_true h),
    (getByte_reads r).bind fun _ r _ => (getByte_reads r).bind fun _ r _ => .ok rfl,
    (getChars_reads r).bind fun _ r _ => .ok rfl,
    (getBytes_reads r).bind fun _ r _ => (getNat_reads r).bind fun _ r _ => .ok rfl,
    (getBytes_reads r).bind fun _ r _ => (getNat_reads r).bind fun _ r _ => .ok rfl,
    (getSaRef_reads r).bind fun _ r _ => .ok rfl,
    (getSaRef_reads r).bind fun _ r _ => (getSaRef_reads r).bind fun _ r _ => .ok rfl,
    (getSaRef_reads r).bind fun _ r _ => (getSaRef_reads r).bind fun _ r _ => .ok rfl,
    (getChars_reads r).bind fun _ r _ => (getInt_reads r).bind fun _ r _ => (getByte_reads r).bind fun _ r _ =>
      (getByte_reads r).bind fun _ r _ => (getOrder_reads r).bind fun _ r _ => .ok rfl,
    .error _]

theorem decodeData_reads (code : Byte) (r : Bytes) : ReadsOff (decodeData code r) (fun i => i.wf = true) r := by
  unfold decodeData
  split
  exacts [(getBytes_reads r).bind fun _ r _ => (getNat_reads r).bind fun _ r _ =>
      (getNat_reads r).bind fun _ r _ => .ok rfl,
    (getRecRef_reads r).bind fun _ r _ => .ok rfl,
    (getBytes_reads r).bind fun _ r _ => (getBytes_reads r).bind fun _ r _ => (getBytes_reads r).bind fun _ r _ =>
      (getNat_reads r).bind fun _ r _ => (getNat_reads r).bind fun _ r _ => (getNat_reads r).bind fun _ r _ =>
      .ok rfl,
    (getBytes_reads r).bind fun _ r _ => (getBytes_reads r).bind fun _ r _ => (getBytes_reads r).bind fun _ r _ =>
      .ok rfl,
    (getBytes_reads r).bind fun _ r _ => (getNat_reads r).bind fun _ r _ => (getNat_reads r).bind fun _ r _ =>
      (getOptSaRef_reads r).bind fun _ r _ => (getBool_reads r).bind fun _ r _ => .ok rfl,
    (getNat_reads r).bind fun _ r _ => .ok rfl,
    .error _]

theorem decodeFrame_reads (code : Byte) (r : Bytes) : ReadsOff (decodeFrame code r) (fun i => i.wf = true) r := by
  unfold decodeFrame
  split
  exacts [(getByte_reads r).bind fun _ r _ => (getByte_reads r).bind fun _ r _ => .ok rfl,
    (getByte_reads r).bind fun _ r _ => (getByte_reads r).bind fun _ r _ => (getByte_reads r).bind fun _ r _ =>
      (getBytes_reads r).bind fun _ r _ => .ok rfl,
    (getBytes_reads r).bind fun _ r _ => .ok rfl,
    (getBytes_reads r).bind fun _ r _ => .ok rfl,
    (getBytes_reads r).bind fun _ r _ => .ok rfl,
    (getBytes_reads r).bind fun _ r _ => .ok rfl,
    (getBytes_reads r).bind fun _ r _ => .ok rfl,
    (getNat_reads r).bind fun _ r _ => .ok rfl,
    .error _]

theorem decodeLink_reads (code : Byte) (r : Bytes) : ReadsOff (decodeLink code r) (fun i => i.wf = true) r := by
  unfold decodeLink
  split
  exacts [(getByte_reads r).bind fun _ r _ => (getNat_reads r).bind fun _ r _ => .ok rfl,
    (getByte_reads r).bind fun _ r _ => (getBytes_reads r).bind fun _ r _ => (getNat_reads r).bind fun _ r _ =>
      .ok rfl,
    (getByte_reads r).bind fun _ r _ => (getNat_reads r).bind fun _ r _ => .ok rfl,
    (getSaRef_reads r).bind fun _ r _ => (getNat_reads r).bind fun _ r _ => .ok rfl,
    (getSaRef_reads r).bind fun _ r _ => (getNat_reads r).bind fun _ r _ => .ok rfl,
    (getByte_reads r).bind fun _ r _ => (getBytes_reads r).bind fun _ r _ => (getNat_reads r).bind fun _ r _ =>
      .ok rfl,
    (getByte_reads r).bind fun _ r _ => (getNat_reads r).bind fun _ r _ => .ok rfl,
    (getFixed_reads 8 r).bind fun _ r h => (getNat_reads r).bind fun _ r _ => .ok (beq_iff_eq.mpr h),
    .error _]

theorem decodeWireless_reads (code : Byte) (r : Bytes) : ReadsOff (decodeWireless code r) (fun i =>
      i.wf = true) r := by
  unfold decodeWireless
  split
  exacts [(getBytes_reads r).bind fun _ r _ => (getBytes_reads r).bind fun _ r _ => .ok rfl,
    (getNat_reads r).bind fun _ r _ => .ok rfl,
    (getNat_reads r).bind fun _ r _ => .ok rfl,
    .error _]

theorem decodeScan_reads (code : Byte) (r : Bytes) : ReadsOff (decodeScan code r) (fun i => i.wf = true) r := by
  unfold decodeScan
  split
  exacts [(getChars_reads r).bind fun _ r _ => .ok rfl,
    (getNat_reads r).bind fun _ r _ => .ok rfl,
    .ok rfl,
    .ok rfl,
    (getChars_reads r).bind fun _ r _ => (getNat_reads r).bind fun _ r _ => .ok rfl,
    .ok rfl,
    (getFixed_reads 16 r).bind fun _ r h => .ok (beq_iff_eq.mpr h),
    (getChars_reads r).bind fun _ r _ => .ok rfl,
    .error _]

theorem decodeFormat_reads (code : Byte) (r : Bytes) : ReadsOff (decodeFormat code r) (fun i => i.wf = true) r := by
  unfold decodeFormat
  split
  exacts [.ok rfl,
    (getBytes_reads r).bind fun _ r _ => .ok rfl,
    (getBytes_reads r).bind fun _ r _ => .ok rfl,
    (getBytes_reads r).bind fun _ r _ => .ok rfl,
    (getBytes_reads r).bind fun _ r _ => .ok rfl,
    (getBytes_reads r).bind fun _ r _ => .ok rfl,
    (getByte_reads r).bind fun _ r _ => (getByte_reads r).bind fun _ r _ => .ok rfl,
    (getBytes_reads r).bind fun _ r _ => .ok rfl,
    (getBytes_reads r).bind fun _ r _ => .ok rfl,
    (getBytes_reads r).bind fun _ r _ => .ok rfl,
    (getBytes_reads r).bind fun _ r _ => .ok rfl,
    (getNibble_reads r).bind fun _ r h => (getHint_reads r).bind fun _ r _ => (getBytes_reads r).bind fun _ r _ =>
      .ok (decide_eq_true h),
    (getBytes_reads r).bind fun _ r _ => .ok rfl,
    (getByte_reads r).bind fun _ r _ => .ok rfl,
    (getBytes_reads r).bind fun _ r _ => .ok rfl,
    (getFixed_reads 8 r).bind fun _ r h => (getByte_reads r).bind fun _ r _ => .ok (beq_iff_eq.mpr h),
    (getFixed_reads 16 r).bind fun _ r h => .ok (beq_iff_eq.mpr h),
    (getByte_reads r).bind fun _ r _ => .ok rfl,
    (getByte_reads r).bind fun _ r _ => .ok rfl,
    .ok rfl,
    .ok rfl,
    (getByte_reads r).bind fun _ r _ => .ok rfl,
    (getByte_reads r).bind fun _ r _ => .ok rfl,
    (getByte_reads r).bind fun _ r _ => .ok rfl,
    .error _]

theorem decodeOp_reads (code : Byte) (r : Bytes) : ReadsOff (decodeOp code r) (fun i => i.wf = true) r := by
  unfold decodeOp
  split
  · exact decodeFormat_reads code r
  · split
    exacts [decodeSession_reads code r, decodeCodec_reads code r, decodeData_reads code r, decodeData_reads code r,
      decodeFrame_reads code r, decodeLink_reads code r, decodeWireless_reads code r, decodeScan_reads code r,
      decodeFormat_reads code r]

/-- Settles O1: what is encoded decodes (`decode_encode`); what decodes was read operand by operand off the bytes after its
code byte. -/
theorem decodingUndoesEncoding : Obligations.DecodingUndoesEncoding := by
  refine ⟨fun i rest h => decode_encode h rest, fun bs rest i h => ?_⟩
  cases bs with
  | nil => cases h
  | cons code r =>
    obtain ⟨hwf, used, rfl⟩ := decodeOp_reads code r i rest h
    exact ⟨hwf, code :: used, List.cons_ne_nil _ _, rfl⟩

/-- Settles O2: by running the readers on the bytes, code byte first. -/
theorem writtenRequestsDecode : Obligations.WrittenRequestsDecode := by
  simp [Obligations.WrittenRequestsDecode, decode, decodeOp, decodeSession, decodeLink, decodeCodec, decodeData,
    decodeFormat, getByte, getNat, getInt, getPos, getBytes, getFixed, getOptSaRef, getSaRef, getBool, bind, Except.bind]

end Sys2Proof

/-! One step: the oldest input is taken (20_memory.md R73; log 4). -/

namespace Sys2Proof.Machine

section
variable {s : State} {rest : List Input}

theorem step_of_request {bs left : Bytes} {i : Instr} (h : s.inp = .request bs :: rest) (hd : decode bs = .ok (i, left)) :
    step s = exec i { s with inp := rest } := by
  simp only [step, h, hd]

theorem step_of_undecodable {bs : Bytes} {e : DecodeError} (h : s.inp = .request bs :: rest) (hd : decode bs = .error e) :
    step s = .refused (.undecodable e) := by
  simp only [step, h, hd]

theorem step_of_deliver {buf rssi : Bytes} (h : s.inp = .wlDeliver buf rssi :: rest) :
    step s = exec (.wlNew buf rssi) { s with inp := rest } := by
  simp only [step, h]

theorem step_of_discarded {bs : Bytes} (h : s.inp = .wlDiscarded bs :: rest) :
    step s = forwardEvent (.onDiscardedBytes bs) { s with inp := rest } := by
  simp only [step, h]

theorem step_of_stopped {cause : Bytes} (h : s.inp = .wlStopped cause :: rest) :
    step s = forwardEvent (.onStoppedListening cause) { s with inp := rest } := by
  simp only [step, h]

theorem step_of_no_input (h : s.inp = []) : step s = .next s := by simp only [step, h]

end

/-- A driver's event is forwarded on a wireless session, and only the events change (R480). -/
theorem forwardEvent_of_wireless {s : State} (h : s.kind = .wireless) (e : Event) :
    forwardEvent e s = .next { s with evts := if s.listener then s.evts ++ [e] else s.evts } := by
  rw [forwardEvent, if_pos h, State.emit_eq]

theorem forwardEvent_of_wired {s : State} (h : s.kind = .wired) (e : Event) :
    forwardEvent e s = .fault .noWirelessInput := by
  rw [forwardEvent, if_neg (by rw [h]; decide)]

/-- Settles O3: by the kind of the oldest input; a well-formed request is one that decodes (`decode_encode`). -/
theorem stepRunsTheDecodedRequest : Obligations.StepRunsTheDecodedRequest := by
  refine fun s rest => ⟨fun bs i left h hd => step_of_request h hd,
    fun i junk hwf h => step_of_request h (decode_encode hwf junk), fun bs e h hd => step_of_undecodable h hd,
    fun buf rssi h => step_of_deliver h, fun stopped x h => ?forwarded, step_of_no_input⟩
  cases stopped with
  | false =>
    rw [step_of_discarded h]
    exact ⟨fun hk => forwardEvent_of_wireless (s := { s with inp := rest }) hk _,
      fun hk => forwardEvent_of_wired (s := { s with inp := rest }) hk _⟩
  | true =>
    rw [step_of_stopped h]
    exact ⟨fun hk => forwardEvent_of_wireless (s := { s with inp := rest }) hk _,
      fun hk => forwardEvent_of_wired (s := { s with inp := rest }) hk _⟩

end Sys2Proof.Machine

/-! Endings of operations that only answer, and the BCD unit: values and encoding (40_bcd.md R142 to R145). -/

namespace Sys2Proof.Machine

/-! ## An operation that only answers what its part gives -/

section
variable {α : Type} {r : Run α} {f : α → Value} {s : State}

theorem conclude_map_ok {a : α} (h : r = .ok a) : conclude (do let x ← r; .ok (f x)) s = .next (s.respond (f a)) := by
  rw [h]; rfl

theorem conclude_map_raised {c : Cause} (h : r = .error (.raised c)) :
    conclude (do let x ← r; .ok (f x)) s = .next (s.raise c) := by
  rw [h]; rfl

theorem conclude_map_refused {x : Refusal} (h : r = .error (.refused x)) :
    conclude (do let x ← r; .ok (f x)) s = .refused x := by
  rw [h]; rfl

end

/-! ## The value of a Bcd (R143) -/

/-- The digits weighted by their powers of ten. -/
theorem digitsValue_eq_sum (ds : List Nat) :
    digitsValue ds = ((List.range ds.length).map (fun j => ds.getD j 0 * 10 ^ j)).sum := by
  induction ds with
  | nil => rfl
  | cons d ds ih =>
    rw [digitsValue, ih, List.length_cons, List.range_succ_eq_map, List.map_cons, List.sum_cons, List.map_map,
      ← List.sum_map_mul_left]
    simp only [List.getD_cons_zero, pow_zero, mul_one, Function.comp_def, List.getD_cons_succ, Nat.succ_eq_add_one, pow_succ]
    congr 3
    ext j
    ring

/-- The sign is a factor. -/
theorem bcdValue_eq (x : Bcd) : bcdValue x = (if x.negative then -1 else 1) * (digitsValue x.digits : Int) := by
  unfold bcdValue
  split <;> simp

section
variable {w : Nat} {v : Int}

theorem fitsSigned_iff : fitsSigned w v = true ↔ -2 ^ (w - 1) ≤ v ∧ v ≤ 2 ^ (w - 1) - 1 := decide_eq_true_iff

/-- A value in the bounds is the value of its word. -/
theorem toInt_ofInt_of_fitsSigned (hw : 0 < w) (h : fitsSigned w v = true) : (BitVec.ofInt w v).toInt = v := by
  obtain ⟨hlow, hhigh⟩ := fitsSigned_iff.mp h
  exact BitVec.toInt_ofInt_eq_self hw hlow (by omega)

end

section
variable {x : Bcd}

theorem bcdInt_of_fits (h : fitsSigned 32 (bcdValue x) = true) : bcdInt x = .ok (BitVec.ofInt 32 (bcdValue x)) := if_pos h
theorem bcdInt_of_not_fits (h : ¬fitsSigned 32 (bcdValue x) = true) : bcdInt x = .error (.refused .intOverflow) := if_neg h
theorem bcdLong_of_fits (h : fitsSigned 64 (bcdValue x) = true) : bcdLong x = .ok (BitVec.ofInt 64 (bcdValue x)) := if_pos h
theorem bcdLong_of_not_fits (h : ¬fitsSigned 64 (bcdValue x) = true) : bcdLong x = .error (.refused .longOverflow) :=
  if_neg h

end

theorem exec_bcdStr (x : BcdRef) (s : State) : exec (.bcdStr x) s = execBcdStr x s := rfl
theorem exec_bcdInt (x : BcdRef) (s : State) : exec (.bcdInt x) s = execBcdInt x s := rfl
theorem exec_bcdLong (x : BcdRef) (s : State) : exec (.bcdLong x) s = execBcdLong x s := rfl

section
variable {x : BcdRef} {b : Bcd} {s : State}

theorem execBcdStr_of_ok (h : bcdAt s x = .ok b) : execBcdStr x s = .next (s.respond (.text (bcdString b))) :=
  conclude_map_ok h

/-- Of a Bcd that is there, the operations are their values. -/
theorem execBcdInt_of_ok (h : bcdAt s x = .ok b) : execBcdInt x s = conclude (do let v ← bcdInt b; .ok (.int32 v)) s := by
  rw [execBcdInt, h]; rfl
theorem execBcdLong_of_ok (h : bcdAt s x = .ok b) :
    execBcdLong x s = conclude (do let v ← bcdLong b; .ok (.int64 v)) s := by
  rw [execBcdLong, h]; rfl

end

/-- Settles O20: the sum of the digits' powers is `bcdValue`, and the two range checks are `fitsSigned`. -/
theorem bcdValuesAreExact : Obligations.BcdValuesAreExact := by
  intro x b s v hb hv
  obtain rfl : v = bcdValue b := by rw [hv, bcdValue_eq, digitsValue_eq_sum]
  have fits32 : fitsSigned 32 (bcdValue b) = true ↔ -2147483648 ≤ bcdValue b ∧ bcdValue b ≤ 2147483647 := fitsSigned_iff
  have fits64 : fitsSigned 64 (bcdValue b) = true ↔
      -9223372036854775808 ≤ bcdValue b ∧ bcdValue b ≤ 9223372036854775807 := fitsSigned_iff
  rw [exec_bcdStr, exec_bcdInt, exec_bcdLong, execBcdStr_of_ok hb, execBcdInt_of_ok hb, execBcdLong_of_ok hb]
  refine ⟨rfl, fun h => ?int, fun h => ?intOver, fun h => ?long, fun h => ?longOver⟩
  case int =>
    have hfits := fits32.mpr h
    exact ⟨_, conclude_map_ok (bcdInt_of_fits hfits), toInt_ofInt_of_fitsSigned (by decide) hfits⟩
  case intOver => exact conclude_map_refused (bcdInt_of_not_fits fun hfits => by have := fits32.mp hfits; omega)
  case long =>
    have hfits := fits64.mpr h
    exact ⟨_, conclude_map_ok (bcdLong_of_fits hfits), toInt_ofInt_of_fitsSigned (by decide) hfits⟩
  case longOver => exact conclude_map_refused (bcdLong_of_not_fits fun hfits => by have := fits64.mp hfits; omega)

/-! ## BCD.ENC (R145) -/

theorem packDigits_length (n v : Nat) : (packDigits n v).length = n := by
  induction n generalizing v with
  | zero => rfl
  | succ n ih => rw [packDigits, List.length_cons, ih]

theorem packNegative_length (n m : Nat) : (packNegative n m).length = n := by
  match n with
  | 0 => rfl
  | 1 => rfl
  | n + 2 => rw [packNegative, List.length_cons, packNegative_length (n + 1)]

/-- A byte made of two digits has these nibbles. -/
theorem nibbles_digits (v : Nat) :
    lo (nibbles (v / 10 % 10) (v % 10)) = v % 10 ∧ hi (nibbles (v / 10 % 10) (v % 10)) = v / 10 % 10 := by
  rw [lo_nibbles, hi_nibbles]
  omega

/-- What the decoder reads of a packed value: its digits, and no sentinel. -/
theorem bcdDigits_packDigits (n v : Nat) (h : v < 10 ^ (2 * (n + 1))) :
    ∃ ds, bcdDigits (packDigits (n + 1) v) = .ok ds ∧ digitsValue ds = v ∧ bcdNegative (packDigits (n + 1) v) = false := by
  obtain ⟨hlo, hhi⟩ := nibbles_digits v
  induction n generalizing v with
  | zero =>
    have hv : v < 100 := h
    refine ⟨[v % 10, v / 10 % 10], bcdDigits_singleton_ok.mpr ⟨by omega, .inr ⟨by omega, by rw [hlo, hhi]⟩⟩, ?_, ?_⟩
    · simp only [digitsValue]; omega
    · have hsent : v / 10 % 10 ≠ 15 := by omega
      simp [packDigits, hhi, hsent]
  | succ n ih =>
    have hnext : v / 100 < 10 ^ (2 * (n + 1)) :=
      Nat.div_lt_of_lt_mul (by rw [show 2 * (n + 1 + 1) = 2 + 2 * (n + 1) by ring, pow_add] at h; exact h)
    obtain ⟨ds, hds, hval, hneg⟩ := ih (v / 100) hnext (nibbles_digits _).1 (nibbles_digits _).2
    refine ⟨v % 10 :: v / 10 % 10 :: ds, bcdDigits_cons_cons_ok.mpr ⟨by omega, ds, hds, by rw [hlo, hhi]⟩, ?_, ?_⟩
    · simp only [digitsValue, hval]; omega
    · rw [packDigits, packDigits, bcdNegative_cons_cons]
      exact hneg

/-- The same below zero: one digit less, and the sentinel. -/
theorem bcdDigits_packNegative (n m : Nat) (h : m < 10 ^ (2 * (n + 1) - 1)) :
    ∃ ds, bcdDigits (packNegative (n + 1) m) = .ok ds ∧ digitsValue ds = m ∧
      bcdNegative (packNegative (n + 1) m) = true := by
  induction n generalizing m with
  | zero =>
    have hm : m < 10 := h
    have hlo : lo (nibbles 15 (m % 10)) = m % 10 := by rw [lo_nibbles]; omega
    have hhi : hi (nibbles 15 (m % 10)) = 15 := by rw [hi_nibbles]
    refine ⟨[m % 10], bcdDigits_singleton_ok.mpr ⟨by omega, .inl ⟨hhi, by rw [hlo]⟩⟩, ?_, ?_⟩
    · simp only [digitsValue]; omega
    · simp [packNegative, hhi]
  | succ n ih =>
    obtain ⟨hlo, hhi⟩ := nibbles_digits m
    have hnext : m / 100 < 10 ^ (2 * (n + 1) - 1) :=
      Nat.div_lt_of_lt_mul (by
        rw [show 2 * (n + 1 + 1) - 1 = 2 + (2 * (n + 1) - 1) by omega, pow_add] at h; exact h)
    obtain ⟨ds, hds, hval, hneg⟩ := ih (m / 100) hnext
    cases hp : packNegative (n + 1) (m / 100) with
    | nil => simpa [hp] using packNegative_length (n + 1) (m / 100)
    | cons y b =>
      rw [hp] at hds hneg
      rw [packNegative, hp]
      refine ⟨m % 10 :: m / 10 % 10 :: ds, bcdDigits_cons_cons_ok.mpr ⟨by omega, ds, hds, by rw [hlo, hhi]⟩, ?_, ?_⟩
      · simp only [digitsValue, hval]; omega
      · rw [bcdNegative_cons_cons]
        exact hneg

/-- `v` fits `n` bytes (R145). -/
def FitsBcd (v : Int) (n : Nat) : Prop := 0 ≤ v ∧ v < 10 ^ (2 * n) ∨ v < 0 ∧ -v < 10 ^ (2 * n - 1)

/-- A power of ten as an integer, at the edge of the natural numbers. -/
theorem toNat_lt_pow_iff {v : Int} (hv : 0 ≤ v) (k : Nat) : v.toNat < 10 ^ k ↔ v < 10 ^ k := by
  rw [Int.toNat_lt hv]
  push_cast
  rfl

/-- What fits is encoded in `n` bytes, which BCD.DEC reads back as the value. -/
theorem bcdEncode_of_fits {v : Int} {n : Nat} (hn : 1 ≤ n) (h : FitsBcd v n) :
    ∃ b x, bcdEncode v n = .ok b ∧ b.length = n ∧ bcdDecode b = .ok x ∧ bcdValue x = v := by
  obtain ⟨n, rfl⟩ : ∃ k, n = k + 1 := ⟨n - 1, by omega⟩
  obtain ⟨hv, hlt⟩ | ⟨hv, hlt⟩ := h
  · have hlt := (toNat_lt_pow_iff hv _).mpr hlt
    obtain ⟨ds, hds, hval, hneg⟩ := bcdDigits_packDigits n v.toNat hlt
    refine ⟨packDigits (n + 1) v.toNat, _, ?_, packDigits_length _ _, Dec.bind_ok.mpr ⟨ds, hds, rfl⟩, ?_⟩
    · rw [bcdEncode, if_neg (by omega), if_pos hv, if_neg (by omega)]
    · simp only [bcdValue, hneg, hval, Bool.false_eq_true, if_false]; omega
  · have hlt := (toNat_lt_pow_iff (by omega) _).mpr hlt
    obtain ⟨ds, hds, hval, hneg⟩ := bcdDigits_packNegative n (-v).toNat hlt
    refine ⟨packNegative (n + 1) (-v).toNat, _, ?_, packNegative_length _ _, Dec.bind_ok.mpr ⟨ds, hds, rfl⟩, ?_⟩
    · rw [bcdEncode, if_neg (by omega), if_neg (by omega), if_neg (by omega)]
    · simp only [bcdValue, hneg, hval, if_true]; omega

/-- What does not fit is refused (93 U5). -/
theorem bcdEncode_of_not_fits {v : Int} {n : Nat} (hn : 1 ≤ n) (h : ¬FitsBcd v n) :
    bcdEncode v n = .error (.refused .bcdEncodeRange) := by
  rw [bcdEncode, if_neg (by omega)]
  simp only [FitsBcd, not_or, not_and] at h
  split
  case isTrue hv =>
    rw [if_pos]
    exact Nat.le_of_not_lt fun hlt => h.1 hv ((toNat_lt_pow_iff hv _).mp hlt)
  case isFalse hv =>
    rw [if_pos]
    exact Nat.le_of_not_lt fun hlt => h.2 (by omega) ((toNat_lt_pow_iff (by omega) _).mp hlt)

/-- A decoder that reads bytes says that they are a packed decimal. -/
theorem packedDecimal_of_bcdDecode {b : Bytes} {x : Bcd} (hb : b ≠ []) (h : bcdDecode b = .ok x) : PackedDecimal b := by
  obtain ⟨-, -, hds⟩ := bcdDecode_bytes h
  exact (bcdDigits_packed b hb).mp ⟨_, hds⟩

theorem exec_bcdEnc (v : Int) (n : Nat) (s : State) : exec (.bcdEnc v n) s = execBcdEnc v n s := rfl

/-- Settles O21: by whether the value fits; the digits of what is packed are those of the value. -/
theorem bcdEncIsTheInverseOfBcdDec : Obligations.BcdEncIsTheInverseOfBcdDec := by
  intro v n s hn
  rw [exec_bcdEnc]
  refine ⟨fun h => ?fits, fun h => ?unfit⟩
  case fits =>
    obtain ⟨b, x, henc, hlen, hdec, hval⟩ := bcdEncode_of_fits hn h
    have hb : b ≠ [] := List.ne_nil_of_length_pos (by omega)
    refine ⟨b, x, conclude_map_ok henc, hlen, packedDecimal_of_bcdDecode hb hdec, ?_, hval⟩
    rw [exec_bcdDec, execBcdDec_of_decode hb hdec]
  case unfit =>
    refine conclude_map_refused (bcdEncode_of_not_fits hn ?_)
    have hpow (k : Nat) : (0 : Int) < 10 ^ k := by positivity
    have hfull := hpow (2 * n)
    have hless := hpow (2 * n - 1)
    unfold FitsBcd
    omega

end Sys2Proof.Machine

/-! The SA unit: manufacturer ids, addresses read, built and compared (41_secondary_address.md). -/

namespace Sys2Proof.Machine

/-! ## MAN.DEC (R162) -/

theorem charOf_toNat {n : Nat} (h : n < 0xD800) : (charOf n).toNat = n := by
  have hvalid : n.isValidChar := .inl h
  rw [charOf, Char.toNat_ofNat, if_pos hvalid]

theorem manDecode_eq (m0 m1 : Byte) :
    manDecode m0 m1 =
      [charOf (manWord m0 m1 / 1024 % 32 + 64), charOf (manWord m0 m1 / 32 % 32 + 64), charOf (manWord m0 m1 % 32 + 64)] := by
  simp [manDecode, manGroups, bitsOf]

/-- Bit 15 is no part of a group. -/
theorem manDecode_xor_bit15 (m0 m1 : Byte) : manDecode m0 (m1 ^^^ 0x80#8) = manDecode m0 m1 := by
  have hlow : ∀ m : Byte, (m ^^^ 0x80#8).toNat % 128 = m.toNat % 128 := by decide
  have h := hlow m1
  have hword : manWord m0 (m1 ^^^ 0x80#8) % 32768 = manWord m0 m1 % 32768 := by simp only [manWord]; omega
  have g0 : manWord m0 (m1 ^^^ 0x80#8) / 1024 % 32 = manWord m0 m1 / 1024 % 32 := by omega
  have g1 : manWord m0 (m1 ^^^ 0x80#8) / 32 % 32 = manWord m0 m1 / 32 % 32 := by omega
  have g2 : manWord m0 (m1 ^^^ 0x80#8) % 32 = manWord m0 m1 % 32 := by omega
  rw [manDecode_eq, manDecode_eq, g0, g1, g2]

theorem exec_manDec (m0 m1 : Byte) (s : State) : exec (.manDec m0 m1) s = .next (s.respond (.text (manDecode m0 m1))) := rfl

/-- The groups of the word of three letters are the letters'. -/
theorem manDecode_letterWord {c0 c1 c2 : Char} (h0 : UpperCase c0) (h1 : UpperCase c1) (h2 : UpperCase c2) :
    manDecode (BitVec.ofNat 8 (letterWord c0 c1 c2)) (BitVec.ofNat 8 (letterWord c0 c1 c2 / 256)) = [c0, c1, c2] := by
  have hlt := letterWord_lt h0 h1 h2
  obtain ⟨l0, u0⟩ := h0
  obtain ⟨l1, u1⟩ := h1
  obtain ⟨l2, u2⟩ := h2
  have g0 : letterWord c0 c1 c2 / 1024 % 32 + 64 = c0.toNat := by unfold letterWord; omega
  have g1 : letterWord c0 c1 c2 / 32 % 32 + 64 = c1.toNat := by unfold letterWord; omega
  have g2 : letterWord c0 c1 c2 % 32 + 64 = c2.toNat := by unfold letterWord; omega
  rw [manDecode_eq, manWord_ofNat (by omega), g0, g1, g2]
  simp only [charOf, Char.ofNat_toNat]

/-- Settles O22: the groups as quotients of the word, and the word of three letters read back. -/
theorem manDecIsTotal : Obligations.ManDecIsTotal := by
  refine ⟨fun m0 m1 s => ?total, fun c0 c1 c2 m0 m1 s h0 h1 h2 henc => ?inverse⟩
  case total =>
    have hchar (x : Nat) : (charOf (x % 32 + 64)).toNat = x % 32 + 64 := charOf_toNat (by omega)
    refine ⟨_, _, _, by rw [exec_manDec, manDecode_eq], ?_⟩
    rw [hchar, hchar, hchar, exec_manDec, exec_manDec, manDecode_xor_bit15]
    refine ⟨by omega, by omega, by omega, by omega, by omega, by omega, ?_, rfl⟩
    rw [manWord]
    omega
  case inverse =>
    rw [exec_manEnc, execManEnc_of_ok (manEncode_of_upper h0 h1 h2)] at henc
    injection henc with henc
    have hresp := congrArg State.resp henc
    simp only [State.respond_resp, Option.some.injEq, Response.result.injEq, Value.bytes.injEq, List.cons.injEq] at hresp
    obtain ⟨rfl, rfl, -⟩ := hresp
    rw [exec_manDec, manDecode_letterWord h0 h1 h2]

/-! ## Addresses from bytes (R165, R166) -/

section
variable {id : Bytes} {m0 m1 ver typ : Byte}

/-- SA.LH of the four fields in its order. -/
theorem saFromLh_fields {x : Bcd} (hid : id.length = 4) (hx : bcdDecode id = .ok x) :
    saFromLh (id ++ [m0, m1, ver, typ]) =
      .ok { manufacturerId := manDecode m0 m1, deviceId := x, version := ver, deviceType := typ,
            raw := id ++ [m0, m1, ver, typ] } := by
  obtain ⟨i0, i1, i2, i3, rfl⟩ := List.length_eq_four.mp hid
  exact Dec.bind_ok.mpr ⟨x, hx, rfl⟩

/-- SA.LL of the same fields in its own order. -/
theorem saFromLl_fields {x : Bcd} (hid : id.length = 4) (hx : bcdDecode id = .ok x) :
    saFromLl ([m0, m1] ++ id ++ [ver, typ]) =
      .ok { manufacturerId := manDecode m0 m1, deviceId := x, version := ver, deviceType := typ,
            raw := [m0, m1] ++ id ++ [ver, typ] } := by
  obtain ⟨i0, i1, i2, i3, rfl⟩ := List.length_eq_four.mp hid
  exact Dec.bind_ok.mpr ⟨x, hx, rfl⟩

end

section
variable {raw : Bytes}

/-- SA.LH of 8 bytes anywhere in a buffer. -/
theorem saLhAt_between (front back : Bytes) (hraw : raw.length = 8) :
    saLhAt (front ++ raw ++ back) front.length = saFromLh raw := by
  have hread : memRead 8 (raw ++ back) = .ok (raw, back) := memRead_ok.mpr ⟨rfl, hraw⟩
  rw [saLhAt, readSaLh, Config.saLen, List.append_assoc, List.drop_left, hread]
  cases h : saFromLh raw <;> simp [h, bind, Except.bind]

theorem saLlAt_between (front back : Bytes) (hraw : raw.length = 8) :
    saLlAt (front ++ raw ++ back) front.length = saFromLl raw := by
  have hread : memRead 8 (raw ++ back) = .ok (raw, back) := memRead_ok.mpr ⟨rfl, hraw⟩
  rw [saLlAt, readSaLl, Config.saLen, List.append_assoc, List.drop_left, hread]
  cases h : saFromLl raw <;> simp [h, bind, Except.bind]

/-- A device id that is no packed decimal. -/
theorem saFromLh_of_not_packed (hid : raw.take 4 ≠ []) (h : ¬PackedDecimal (raw.take 4)) :
    saFromLh raw = .error .bcdInvalidNibble :=
  Dec.bind_error.mpr (.inl ((bcdDecode_packed hid).2 h))

theorem saFromLl_of_not_packed (hid : (raw.drop 2).take 4 ≠ []) (h : ¬PackedDecimal ((raw.drop 2).take 4)) :
    saFromLl raw = .error .bcdInvalidNibble :=
  Dec.bind_error.mpr (.inl ((bcdDecode_packed hid).2 h))

end

/-- Fewer than 8 bytes are truncated. -/
theorem saLhAt_of_short {buf : Bytes} {p : Nat} (h : buf.length < p + 8) : saLhAt buf p = .error .truncatedBuffer :=
  Dec.bind_error.mpr (.inl (Dec.bind_error.mpr (.inl (memRead_error.mpr
    ⟨by rw [List.length_drop, Config.saLen]; omega, rfl⟩))))

theorem saLlAt_of_short {buf : Bytes} {p : Nat} (h : buf.length < p + 8) : saLlAt buf p = .error .truncatedBuffer :=
  Dec.bind_error.mpr (.inl (Dec.bind_error.mpr (.inl (memRead_error.mpr
    ⟨by rw [List.length_drop, Config.saLen]; omega, rfl⟩))))

theorem exec_saLh (buf : Bytes) (p : Nat) (s : State) : exec (.saLh buf p) s = concludeAddr (Run.ofDec (saLhAt buf p)) s :=
  rfl
theorem exec_saLl (buf : Bytes) (p : Nat) (s : State) : exec (.saLl buf p) s = concludeAddr (Run.ofDec (saLlAt buf p)) s :=
  rfl

/-- What is read becomes a new object; an exception is the operation's. -/
theorem concludeAddr_ok (a : SecondaryAddress) (s : State) :
    concludeAddr (.ok a) s = .next ((s.addAddr a).respond (.address s.addrs.length)) := rfl
theorem concludeAddr_ofDec_ok {d : Dec SecondaryAddress} {a : SecondaryAddress} (h : d = .ok a) (s : State) :
    concludeAddr (Run.ofDec d) s = .next ((s.addAddr a).respond (.address s.addrs.length)) := by rw [h]; rfl
theorem concludeAddr_ofDec_error {d : Dec SecondaryAddress} {c : Cause} (h : d = .error c) (s : State) :
    concludeAddr (Run.ofDec d) s = .next (s.raise c) := by rw [h]; rfl

/-- Settles O24: a window of 8 bytes by `saLhAt_between`, its fields by `saFromLh_fields`, and the same for the other order. -/
theorem addressesAreReadInTheirOrder : Obligations.AddressesAreReadInTheirOrder := by
  refine ⟨fun id front back m0 m1 ver typ s hid => ?_, fun buf p s hshort => ?short⟩
  case short =>
    rw [exec_saLh, exec_saLl]
    exact ⟨concludeAddr_ofDec_error (saLhAt_of_short hshort) s, concludeAddr_ofDec_error (saLlAt_of_short hshort) s⟩
  have hb : id ≠ [] := List.ne_nil_of_length_pos (by omega)
  have hlh : saLhAt (front ++ id ++ [m0, m1, ver, typ] ++ back) front.length = saFromLh (id ++ [m0, m1, ver, typ]) := by
    rw [List.append_assoc front, saLhAt_between front back (by simp [hid])]
  have hll : saLlAt (front ++ [m0, m1] ++ id ++ [ver, typ] ++ back) front.length =
      saFromLl ([m0, m1] ++ id ++ [ver, typ]) := by
    rw [List.append_assoc front, List.append_assoc front, ← saLlAt_between front back (by simp [hid])]
  rw [exec_saLh, exec_saLl, hlh, hll]
  refine ⟨fun hpacked => ?packed, fun hpacked => ?notPacked⟩
  case packed =>
    obtain ⟨x, hx⟩ := (bcdDecode_packed hb).1 hpacked
    obtain ⟨hbytes, hneg, -⟩ := bcdDecode_bytes hx
    refine ⟨x, hbytes, ?_, concludeAddr_ofDec_ok (saFromLh_fields hid hx) s, concludeAddr_ofDec_ok (saFromLl_fields hid hx) s⟩
    rw [hneg, bcdNegative_eq_byteAt, hid]
  case notPacked =>
    have htake : (id ++ [m0, m1, ver, typ]).take 4 = id := List.take_left' hid
    have hdrop : (([m0, m1] ++ id ++ [ver, typ]).drop 2).take 4 = id := List.take_left' hid
    exact ⟨concludeAddr_ofDec_error (saFromLh_of_not_packed (by rwa [htake]) (by rwa [htake])) s,
      concludeAddr_ofDec_error (saFromLl_of_not_packed (by rwa [hdrop]) (by rwa [hdrop])) s⟩

/-! ## SA.BUILD (R172) -/

section
variable {man : List Char} {v : Int} {ver typ : Byte} {order : SaOrder} {m0 m1 : Byte} {id : Bytes} {x : Bcd}

/-- The address of the fields, its raw bytes in the order asked for. -/
def builtAddress (order : SaOrder) (x : Bcd) (m0 m1 ver typ : Byte) : SecondaryAddress where
  manufacturerId := manDecode m0 m1
  deviceId := x
  version := ver
  deviceType := typ
  raw := match order with
    | .lh => x.bytes ++ [m0, m1, ver, typ]
    | .ll => [m0, m1] ++ x.bytes ++ [ver, typ]

theorem builtAddress_whole (hx : x.bytes.length = 4) : (builtAddress order x m0 m1 ver typ).whole := by
  cases order <;> exact ⟨by simp [builtAddress, manDecode_eq], hx, by simp [builtAddress, hx, Config.saLen]⟩

/-- Once its parts are encoded, SA.BUILD reads them back as the address. -/
theorem saBuildOp_of_parts (hid : bcdEncode v 4 = .ok id) (hman : manEncode man = .ok [m0, m1]) (hlen : id.length = 4)
    (hx : bcdDecode id = .ok x) : saBuildOp man v ver typ order = .ok (builtAddress order x m0 m1 ver typ) := by
  have hbytes : x.bytes = id := (bcdDecode_bytes hx).1
  have hlh := saLhAt_between (raw := id ++ [m0, m1, ver, typ]) [] [] (by simp [hlen])
  have hll := saLlAt_between (raw := [m0, m1] ++ id ++ [ver, typ]) [] [] (by simp [hlen])
  rw [saFromLh_fields hlen hx] at hlh
  rw [saFromLl_fields hlen hx] at hll
  rw [saBuildOp, hid, hman]
  cases order with
  | lh => simpa [Run.ofDec, bind, Except.bind, builtAddress, hbytes] using congrArg Run.ofDec hlh
  | ll => simpa [Run.ofDec, bind, Except.bind, builtAddress, hbytes] using congrArg Run.ofDec hll

/-- A device id that does not fit is refused before the manufacturer is looked at. -/
theorem saBuildOp_of_id_refused {r : Refusal} (hid : bcdEncode v 4 = .error (.refused r)) :
    saBuildOp man v ver typ order = .error (.refused r) := by
  rw [saBuildOp, hid]; rfl

theorem saBuildOp_of_man_refused {r : Refusal} (hid : bcdEncode v 4 = .ok id) (hman : manEncode man = .error (.refused r)) :
    saBuildOp man v ver typ order = .error (.refused r) := by
  rw [saBuildOp, hid, hman]; rfl

end

/-- MAN.ENC gives two bytes, or refuses. -/
theorem manEncode_cases (man : List Char) :
    (∃ m0 m1, manEncode man = .ok [m0, m1]) ∨ manEncode man = .error (.refused .manufacturerIdNotUppercase) := by
  by_cases hlen : man.length = 3
  · by_cases hupper : ∀ c ∈ man, UpperCase c
    · obtain ⟨c0, c1, c2, rfl⟩ := List.length_eq_three.mp hlen
      exact .inl ⟨_, _, manEncode_of_upper (hupper c0 (by simp)) (hupper c1 (by simp)) (hupper c2 (by simp))⟩
    · push Not at hupper
      exact .inr (manEncode_of_not_upper hlen hupper)
  · exact .inl ⟨_, _, manEncode_of_length_ne hlen⟩

theorem exec_saBuild (man : List Char) (v : Int) (ver typ : Byte) (order : SaOrder) (s : State) :
    exec (.saBuild man v ver typ order) s = concludeAddr (saBuildOp man v ver typ order) s := rfl

/-- Four bytes hold 8 digits, or 7 and the sign. -/
theorem fitsBcd_four {v : Int} : FitsBcd v 4 ↔ -10000000 < v ∧ v < 100000000 := by
  unfold FitsBcd
  omega

/-- Settles O26: by whether the device id fits and the manufacturer is encoded. -/
theorem saBuildMakesTheAddress : Obligations.SaBuildMakesTheAddress := by
  intro man v ver typ order s
  rw [exec_saBuild]
  refine ⟨fun hlow hhigh hman => ?built, fun hlow hhigh hlen hbad => ?manufacturer, fun hrange => ?deviceId⟩
  case built =>
    obtain ⟨id, x, hid, hlen, hx, hval⟩ := bcdEncode_of_fits (by omega) (fitsBcd_four.mpr ⟨hlow, hhigh⟩)
    have hbytes : x.bytes = id := (bcdDecode_bytes hx).1
    obtain ⟨m0, m1, hm⟩ : ∃ m0 m1, manEncode man = .ok [m0, m1] := by
      refine (manEncode_cases man).resolve_right fun hrefused => ?_
      obtain hlen3 | hupper := hman
      · rw [manEncode_of_length_ne hlen3] at hrefused; cases hrefused
      · by_cases hlen3 : man.length = 3
        · obtain ⟨c0, c1, c2, rfl⟩ := List.length_eq_three.mp hlen3
          rw [manEncode_of_upper (hupper c0 (by simp)) (hupper c1 (by simp)) (hupper c2 (by simp))] at hrefused
          cases hrefused
        · rw [manEncode_of_length_ne hlen3] at hrefused; cases hrefused
    refine ⟨m0, m1, builtAddress order x m0 m1 ver typ, ?_, ?_, rfl, hval, rfl, rfl, builtAddress_whole (hbytes ▸ hlen), ?_⟩
    · rw [exec_manEnc, execManEnc_of_ok hm]
    · rw [saBuildOp_of_parts hid hm hlen hx, concludeAddr_ok]
    · cases order <;> rfl
  case manufacturer =>
    obtain ⟨id, -, hid, -⟩ := bcdEncode_of_fits (by omega) (fitsBcd_four.mpr ⟨hlow, hhigh⟩)
    rw [saBuildOp_of_man_refused hid (manEncode_of_not_upper hlen hbad)]
    rfl
  case deviceId =>
    rw [saBuildOp_of_id_refused (bcdEncode_of_not_fits (by omega) (fitsBcd_four.not.mpr (by omega)))]
    rfl

/-! ## SA.RAW, SA.EQ, SA.CMP (R170, R176, R177) -/

/-- The order of byte strings of one length: after a common part the first byte that differs decides. -/
theorem cmpBytes_lt_iff {a b : Bytes} (h : a.length = b.length) :
    cmpBytes a b = .lt ↔ ∃ (p r r' : Bytes) (u v : Byte), a = p ++ u :: r ∧ b = p ++ v :: r' ∧ u.toNat < v.toNat := by
  induction a generalizing b with
  | nil =>
    refine ⟨fun hlt => ?_, fun ⟨p, r, r', u, v, hp, _⟩ => by simp at hp⟩
    cases b with
    | nil => cases hlt
    | cons y b => cases h
  | cons x a ih =>
    cases b with
    | nil => cases h
    | cons y b =>
      have ih := ih (Nat.succ.inj h)
      constructor
      · intro hlt
        rw [cmpBytes] at hlt
        split at hlt
        · exact ⟨[], a, b, x, y, rfl, rfl, ‹_›⟩
        · split at hlt
          · cases hlt
          · obtain rfl : x = y := BitVec.eq_of_toNat_eq (by omega)
            obtain ⟨p, r, r', u, v, rfl, rfl, huv⟩ := ih.mp hlt
            exact ⟨x :: p, r, r', u, v, rfl, rfl, huv⟩
      · rintro ⟨p, r, r', u, v, ha, hb, huv⟩
        cases p with
        | nil =>
          cases ha
          cases hb
          rw [cmpBytes, if_pos huv]
        | cons z p =>
          cases ha
          cases hb
          rw [cmpBytes, if_neg (Nat.lt_irrefl _), if_neg (Nat.lt_irrefl _)]
          exact ih.mpr ⟨p, r, r', u, v, rfl, rfl, huv⟩

/-- The three results of SA.CMP are the three orderings. -/
theorem saCmp_cases (x y : SecondaryAddress) :
    saCmp x y = -1 ∧ cmpBytes x.raw y.raw = .lt ∨ saCmp x y = 0 ∧ cmpBytes x.raw y.raw = .eq ∨
      saCmp x y = 1 ∧ cmpBytes x.raw y.raw = .gt := by
  unfold saCmp
  cases cmpBytes x.raw y.raw <;> simp

/-- Exchanging the operands changes the sign. -/
theorem saCmp_swap (x y : SecondaryAddress) : saCmp y x = -saCmp x y := by
  rw [saCmp, saCmp, cmpBytes_swap x.raw y.raw]
  cases cmpBytes x.raw y.raw <;> rfl

theorem exec_saRaw (x : SaRef) (s : State) : exec (.saRaw x) s = execSaRaw x s := rfl
theorem exec_saEq (x y : SaRef) (s : State) : exec (.saEq x y) s = execSaEq x y s := rfl
theorem exec_saCmp (x y : SaRef) (s : State) : exec (.saCmp x y) s = execSaCmp x y s := rfl

section
variable {x y : SaRef} {a b : SecondaryAddress} {s : State}

theorem execSaRaw_of_ok (h : saAt s x = .ok a) : execSaRaw x s = .next (s.respond (.bytes a.raw)) := conclude_map_ok h

theorem execSaEq_of_ok (hx : saAt s x = .ok a) (hy : saAt s y = .ok b) :
    execSaEq x y s = .next (s.respond (.bit (saEq a b))) := by
  rw [execSaEq, hx, hy]; rfl

theorem execSaCmp_of_ok (hx : saAt s x = .ok a) (hy : saAt s y = .ok b) :
    execSaCmp x y s = .next (s.respond (.order (saCmp a b))) := by
  rw [execSaCmp, hx, hy]; rfl

end

/-- Settles O25: the comparisons are `==` and `cmpBytes` of the raw bytes; an unwritten address is a free one. -/
theorem addressesCompareByRawBytes : Obligations.AddressesCompareByRawBytes := by
  refine ⟨fun n m s hm hnone => ?unwritten, fun x y a b s hx hy => ?compared⟩
  case unwritten =>
    have hsa : saAt s (.ofMsg n) = .ok (unwrittenAddress n) := saAt_ok.mpr ⟨m, hm, by rw [hnone]; rfl⟩
    exact ⟨_, (unwrittenAddress_whole n).2.2, by rw [exec_saRaw, execSaRaw_of_ok hsa]⟩
  case compared =>
    rw [exec_saRaw, exec_saEq, exec_saCmp, exec_saCmp, execSaRaw_of_ok hx, execSaEq_of_ok hx hy, execSaCmp_of_ok hx hy,
      execSaCmp_of_ok hy hx, saCmp_swap a b]
    refine ⟨rfl, ⟨_, rfl, beq_iff_eq⟩, _, rfl, ?_, ?_, fun hlen => ?_, rfl⟩
    · obtain ⟨h, -⟩ | ⟨h, -⟩ | ⟨h, -⟩ := saCmp_cases a b <;> simp [h]
    · rw [← cmpBytes_eq_iff]
      obtain ⟨h, hc⟩ | ⟨h, hc⟩ | ⟨h, hc⟩ := saCmp_cases a b <;> simp [h, hc]
    · rw [← cmpBytes_lt_iff hlen]
      obtain ⟨h, hc⟩ | ⟨h, hc⟩ | ⟨h, hc⟩ := saCmp_cases a b <;> simp [h, hc]

end Sys2Proof.Machine

/-! Session, keys and frame count bits (47_keys_fcb.md; 10_state.md section 8). -/

namespace Sys2Proof.Machine

/-! ## The key map as a table -/

/-- The lookup is the first pair with the address. -/
theorem KeyMap.get_eq_find (m : KeyMap) (raw : Bytes) : KeyMap.get m raw = (m.find? (fun e => e.1 == raw)).map Prod.snd := by
  induction m with
  | nil => rfl
  | cons e m ih =>
    obtain ⟨r, k⟩ := e
    by_cases hr : r = raw <;> simp [KeyMap.get, hr, ih]

/-- KEY.DEL of an address without a key leaves the map. -/
theorem KeyMap.del_of_get_none {m : KeyMap} {raw : Bytes} (h : KeyMap.get m raw = none) : KeyMap.del m raw = m := by
  induction m with
  | nil => rfl
  | cons e m ih =>
    obtain ⟨r, k⟩ := e
    rw [KeyMap.get] at h
    split at h
    · cases h
    · rw [KeyMap.del, if_neg ‹_›, ih h]

/-- An address a reference stands for does not depend on the key map or the last response. -/
theorem saAt_of_keymap_resp (s : State) (m : KeyMap) (v : Value) (r : SaRef) :
    saAt ((s.setKeymap m).respond v) r = saAt s r := by
  cases r <;> rfl

/-! ## KEY.ADD, KEY.DEL, KEY.GET, FCB.GET (R402 to R406) -/

theorem exec_keyAdd (sa : SaRef) (key : Bytes) (s : State) : exec (.keyAdd sa key) s = execKeyAdd sa key s := rfl
theorem exec_keyDel (sa : SaRef) (s : State) : exec (.keyDel sa) s = execKeyDel sa s := rfl
theorem exec_keyGet (k : AddrKey) (s : State) : exec (.keyGet k) s = execKeyGet k s := rfl
theorem exec_fcbGet (a : Byte) (s : State) : exec (.fcbGet a) s = execFcbGet a s := rfl

section
variable {sa : SaRef} {key : Bytes} {a : SecondaryAddress} {s : State}

theorem keyAddAt_of_length (hkey : key.length = 16) (ha : saAt s sa = .ok a) : keyAddAt sa key s = .ok a.raw := by
  rw [keyAddAt, if_neg (not_not_intro (show key.length = Config.keyLen from hkey)), ha]; rfl

theorem keyAddAt_of_length_ne (hkey : key.length ≠ 16) : keyAddAt sa key s = .error (.refused .badKeyOrIvLength) :=
  if_pos hkey

/-- What KEY.ADD needs: a key of 16 bytes and an address. -/
theorem keyAddAt_ok {raw : Bytes} :
    keyAddAt sa key s = .ok raw ↔ key.length = 16 ∧ ∃ a, saAt s sa = .ok a ∧ raw = a.raw := by
  by_cases hkey : key.length = 16
  · rw [keyAddAt, if_neg (not_not_intro (show key.length = Config.keyLen from hkey)), Run.bind_ok]
    exact ⟨fun ⟨a, ha, h⟩ => ⟨hkey, a, ha, by cases h; rfl⟩, fun ⟨_, a, ha, h⟩ => ⟨a, ha, by rw [h]⟩⟩
  · rw [keyAddAt_of_length_ne hkey]
    exact ⟨fun h => (nomatch h), fun h => absurd h.1 hkey⟩

theorem execKeyAdd_of_ok (hkey : key.length = 16) (ha : saAt s sa = .ok a) :
    execKeyAdd sa key s = .next ((s.setKeymap (KeyMap.add s.keymap a.raw key)).respond .none) := by
  rw [execKeyAdd, keyAddAt_of_length hkey ha]; rfl

theorem execKeyAdd_of_length_ne (hkey : key.length ≠ 16) : execKeyAdd sa key s = .refused .badKeyOrIvLength := by
  rw [execKeyAdd, keyAddAt_of_length_ne hkey]; rfl

theorem execKeyDel_of_ok (ha : saAt s sa = .ok a) :
    execKeyDel sa s = .next ((s.setKeymap (KeyMap.del s.keymap a.raw)).respond .none) := by
  rw [execKeyDel, ha]; rfl

theorem execKeyGet_of_ok {k : AddrKey} {raw : Bytes} (hraw : rawAt s k = .ok raw) :
    execKeyGet k s = .next (s.respond (.key (KeyMap.get s.keymap raw))) := by
  rw [execKeyGet, hraw]; rfl

theorem rawAt_sa (ha : saAt s sa = .ok a) : rawAt s (.sa sa) = .ok a.raw := by rw [rawAt, ha]; rfl

end

/-- Settles O17: the two writes are `KeyMap.add` and `KeyMap.del`, whose laws say what each address has afterwards. -/
theorem keysAreAddedAndRemoved : Obligations.KeysAreAddedAndRemoved := by
  intro sa key a s hwf ha
  rw [exec_keyAdd, exec_keyDel]
  refine ⟨fun hkey => ⟨_, execKeyAdd_of_ok hkey ha, KeyMap.get_add_same _ _ _, fun raw hne =>
    KeyMap.get_add_other _ _ _ _ hne⟩, fun hkey => execKeyAdd_of_length_ne hkey, ?_⟩
  exact ⟨_, execKeyDel_of_ok ha, KeyMap.get_del_same hwf, fun raw hne => KeyMap.get_del_other _ _ _ hne,
    fun hnone => KeyMap.del_of_get_none hnone⟩

/-- Settles O18: the lookup is `KeyMap.get`; after KEY.ADD the address is still the one referred to. -/
theorem keyGetAndFcbGetRead : Obligations.KeyGetAndFcbGetRead := by
  refine ⟨fun k raw s hraw => ?get, fun sa a key s t ha hadd k hk => ?added, fun a s hkind => ?bit, fun a s hkind => ?fault⟩
  case get => rw [exec_keyGet, execKeyGet_of_ok hraw, KeyMap.get_eq_find]
  case added =>
    by_cases hkey : key.length = 16
    · rw [exec_keyAdd, execKeyAdd_of_ok hkey ha] at hadd
      cases hadd
      have hraw : rawAt ((s.setKeymap (KeyMap.add s.keymap a.raw key)).respond .none) k = .ok a.raw := by
        obtain rfl | rfl := hk
        · exact rawAt_sa (by rw [saAt_of_keymap_resp, ha])
        · rfl
      rw [exec_keyGet, execKeyGet_of_ok hraw]
      simp only [State.respond_keymap, State.setKeymap_keymap, KeyMap.get_add_same]
    · rw [exec_keyAdd, execKeyAdd_of_length_ne hkey] at hadd
      cases hadd
  case bit => rw [exec_fcbGet, execFcbGet, if_pos hkind]; rfl
  case fault => rw [exec_fcbGet, execFcbGet, if_neg (by rw [hkind]; decide)]

/-! ## Session start (R400, R520) -/

theorem fcbGet_allOnes (a : Byte) : fcbGet (BitVec.allOnes 256) a = true := by
  rw [fcbGet, BitVec.getLsbD_allOnes, decide_eq_true a.isLt]

theorem exec_sesOpen (kind : SessionKind) (port : Nat) (s : State) :
    exec (.sesOpen kind port) s = .next ((s.openSession kind port).respond (.session kind port)) := rfl

/-- Settles O16: field by field of the opened session. -/
theorem sesOpenStartsAFreshSession : Obligations.SesOpenStartsAFreshSession := by
  intro kind port s
  refine ⟨_, exec_sesOpen kind port s, rfl, rfl, rfl, fun raw => rfl, fun _ => ⟨fcbGet_allOnes, rfl, rfl, rfl⟩, ?_⟩
  exact ⟨rfl, rfl, rfl, rfl, rfl, rfl, rfl, rfl, rfl, rfl, rfl, rfl⟩

/-- The scanner when no scan runs has its shape, and has found nothing. -/
theorem Scanner.init_shaped : Scanner.init.shaped := ⟨Nat.zero_le _, rfl⟩
theorem Scanner.init_distinct : Scanner.init.distinct := List.Pairwise.nil

/-- Settles O6: every field after reset is written out; the invariant of the key map and the scanner holds of the empty
ones. -/
theorem resetIsSessionStart : Obligations.ResetIsSessionStart := by
  refine ⟨fcbGet_allOnes, fun raw => rfl, rfl, rfl, rfl, fun n => ⟨rfl, rfl, rfl, rfl, rfl⟩, ?inv, ?addresses, rfl⟩
  case inv => exact ⟨reset_keymap_wf, rfl, fun f h => (nomatch h), Scanner.init_shaped, Scanner.init_distinct⟩
  case addresses => exact fun a h => (nomatch h)

end Sys2Proof.Machine

/-! The rows that name a byte or lay out a few bytes (30_encoding.md R91 to R113; 48_scanner.md R422, R426). -/

namespace Sys2Proof.Machine

/-! ## What a byte is called -/

/-- RSP_UD has four control bytes (R97). -/
theorem isRspUd_iff (c : Byte) : isRspUd c = true ↔ c ∈ [0x08#8, 0x18#8, 0x28#8, 0x38#8] := by
  revert c
  decide

/-- The names of a control byte, each under its own condition (R95). -/
theorem mem_controlNames {sel c : Byte} {n : ControlName} :
    n ∈ controlNames sel c ↔
      match n with
      | .sndNke => c = 0x40#8
      | .reqUd2 true => c = 0x7B#8
      | .reqUd2 false => c = 0x5B#8
      | .sndUdWrite => c = Config.cSndUdWr
      | .sndUdSelect => c = sel
      | .rspUd => isRspUd c = true := by
  have mem_if (p : Prop) [Decidable p] (m : ControlName) : n ∈ (if p then [m] else []) ↔ p ∧ n = m := by
    split <;> simp [*]
  simp only [controlNames, List.mem_append, mem_if]
  match n with
  | .sndNke => simp
  | .reqUd2 true => simp
  | .reqUd2 false => simp
  | .sndUdWrite => simp
  | .sndUdSelect => simp
  | .rspUd => simp

theorem ciSent_eq_some (ci : Byte) :
    (ciSent ci = some .resetReadout ↔ ci = 0x50#8) ∧ (ciSent ci = some .dataSendOrSelectForReadout ↔ ci = 0x51#8) ∧
    (ciSent ci = some .select ↔ ci = 0x52#8) ∧ (ciSent ci = some .deselect ↔ ci = 0x56#8) := by
  revert ci
  decide

theorem ciReceived_eq (ci : Byte) :
    (ciReceived ci = .longHeader ↔ ci = 0x72#8) ∧ (ciReceived ci = .noHeader ↔ ci = 0x78#8) ∧
    (ciReceived ci = .shortHeader ↔ ci = 0x7A#8) ∧
    (ciReceived ci = .manufacturerSpecific ↔ 0xA0 ≤ ci.toNat ∧ ci.toNat ≤ 0xB7) := by
  revert ci
  decide

theorem specialByte_eq (x : Byte) :
    (specialByte x = .fill ↔ x = 0x2F#8) ∧ (specialByte x = .marker false ↔ x = 0x0F#8) ∧
    (specialByte x = .marker true ↔ x = 0x1F#8) := by
  revert x
  decide

theorem reqUd2Control_eq (f : Bool) : reqUd2Control f = if f then 0x7B#8 else 0x5B#8 := by cases f <;> rfl

theorem exec_leadByte (b : Byte) (s : State) : exec (.leadByte b) s = concludeFields (leadByteOf b) s := rfl

/-- The fields of a reading are the answer, or its exception is raised. -/
theorem concludeFields_ok {r : Dec FormatFields} {f : FormatFields} (h : r = .ok f) (s : State) :
    concludeFields r s = .next (s.respond (.fields f)) := by rw [h]; rfl
theorem concludeFields_error {r : Dec FormatFields} {c : Cause} (h : r = .error c) (s : State) :
    concludeFields r s = .next (s.raise c) := by rw [h]; rfl

/-- Settles O59: each row's definition, by the lemma that says what it names. -/
theorem bytesAreNamed : Obligations.BytesAreNamed := by
  intro b b' f s
  refine ⟨rfl, ?reqUd2, ⟨_, rfl, isRspUd_iff b⟩, ⟨_, rfl, ?names⟩, rfl, ⟨_, _, rfl, ?ci⟩, ⟨_, rfl, specialByte_eq b⟩,
    fun h => ?ack, fun h => ?long, fun hack hlong => ?other, ⟨_, _, _, rfl, ?groups⟩⟩
  case reqUd2 => rw [← reqUd2Control_eq]; rfl
  case names =>
    simp only [mem_controlNames, isRspUd_iff, Config.cSndUdWr, and_self]
  case ci =>
    obtain ⟨h1, h2, h3, h4⟩ := ciSent_eq_some b
    exact ⟨h1, h2, h3, h4, ciReceived_eq b⟩
  case ack => rw [exec_leadByte]; exact concludeFields_ok (if_pos h) s
  case long =>
    subst h
    rfl
  case other =>
    rw [exec_leadByte]
    exact concludeFields_error (by rw [leadByteOf, if_neg hack, if_neg hlong]) s
  case groups =>
    simp only [bitsOf, BitVec.toNat_ofNat, manWord]
    omega

/-! ## MASK.FLIP (R422) -/

/-- Pairs exchanged, position by position; twice is nothing. -/
theorem flipPairs_of_even (m : List Char) (h : m.length % 2 = 0) :
    ∃ r, flipPairs m = some r ∧ r.length = m.length ∧
      (∀ i, 2 * i + 1 < m.length → r[2 * i]? = m[2 * i + 1]? ∧ r[2 * i + 1]? = m[2 * i]?) ∧ flipPairs r = some m := by
  match m, h with
  | [], _ => exact ⟨[], rfl, rfl, fun i hi => absurd hi (Nat.not_lt_zero _), rfl⟩
  | [_], h => cases h
  | a :: b :: m, h =>
    obtain ⟨r, hr, hlen, hget, hback⟩ := flipPairs_of_even m (by simp only [List.length_cons] at h; omega)
    refine ⟨b :: a :: r, by rw [flipPairs, hr]; rfl, by simp [hlen], fun i hi => ?_, by rw [flipPairs, hback]; rfl⟩
    cases i with
    | zero => exact ⟨rfl, rfl⟩
    | succ i => exact hget i (by simp only [List.length_cons] at hi; omega)

theorem flipPairs_of_odd (m : List Char) (h : m.length % 2 = 1) : flipPairs m = none := by
  match m, h with
  | [], h => cases h
  | [_], _ => rfl
  | a :: b :: m, h => rw [flipPairs, flipPairs_of_odd m (by simp only [List.length_cons] at h; omega)]; rfl

theorem exec_maskFlip (m : List Char) (s : State) : exec (.maskFlip m) s = execMaskFlip m s := rfl

theorem execMaskFlip_of_some {m r : List Char} (h : flipPairs m = some r) (s : State) :
    execMaskFlip m s = .next (s.respond (.text r)) :=
  conclude_map_ok (by rw [maskFlipOp, h])

theorem execMaskFlip_of_none {m : List Char} (h : flipPairs m = none) (s : State) :
    execMaskFlip m s = .refused .badMask :=
  conclude_map_refused (by rw [maskFlipOp, h])

/-! ## SCAN.PACK (R426) -/

theorem packWild_length (value : List Nat) : (packWild value).length = 8 := by simp [packWild]

theorem byteAt_packWild (value : List Nat) {i : Nat} (hi : i < 8) :
    byteAt (packWild value) i = nibbles (value.getD (2 * i + 1) 0) (value.getD (2 * i) 0) := by
  simp [byteAt, packWild, hi]

/-- A byte operand as the nibble it stands for. -/
theorem getD_map_toNat (value : Bytes) (k : Nat) : (value.map BitVec.toNat).getD k 0 = (byteAt value k).toNat := by
  simp only [byteAt, List.getD_eq_getElem?_getD, List.getElem?_map]
  cases value[k]? <;> rfl

/-- Settles O58: the exchange of pairs by twos, the nibbles of `nibbles`, the IV as it is written. -/
theorem maskWildcardAndIvLayouts : Obligations.MaskWildcardAndIvLayouts := by
  intro m value raw acc s
  rw [exec_maskFlip]
  refine ⟨fun heven => ?even, fun hodd => execMaskFlip_of_none (flipPairs_of_odd m hodd) s, fun _ => ?pack, fun hraw => ?iv⟩
  case even =>
    obtain ⟨r, hr, hlen, hget, hback⟩ := flipPairs_of_even m heven
    exact ⟨r, execMaskFlip_of_some hr s, hlen, hget, execMaskFlip_of_some hback s⟩
  case pack =>
    refine ⟨_, rfl, rfl, packWild_length _, fun i hi => ?_⟩
    rw [byteAt_packWild _ hi, hi_nibbles, lo_nibbles, getD_map_toNat, getD_map_toNat]
    exact ⟨rfl, rfl⟩
  case iv =>
    refine ⟨_, rfl, by simp [ivOf, hraw], List.take_left' hraw, fun k hlow hhigh => ?_⟩
    rw [ivOf, List.getElem?_append_right (by omega), List.getElem?_replicate, if_pos (by omega)]

end Sys2Proof.Machine

/-! The AES unit: the block functions are inverse to each other, and what chaining makes of blocks (43_aes_cbc.md). -/

namespace Sys2Proof.Machine

/-! ## Field arithmetic: the products are linear (R260) -/

theorem xtime_xor (a b : Byte) : xtime (a ^^^ b) = xtime a ^^^ xtime b := by
  unfold xtime
  rw [BitVec.msb_xor, BitVec.shiftLeft_xor_distrib]
  cases a.msb <;> cases b.msb <;> simp only [Bool.xor_false, Bool.xor_true, Bool.not_false, if_true, if_false,
    Bool.false_eq_true, Bool.xor_self]
  · ac_rfl
  · ac_rfl
  · rw [show a <<< 1 ^^^ 27#8 ^^^ (b <<< 1 ^^^ 27#8) = a <<< 1 ^^^ b <<< 1 ^^^ (27#8 ^^^ 27#8) by ac_rfl, BitVec.xor_self,
      BitVec.xor_zero]

theorem mul3_xor (a b : Byte) : mul3 (a ^^^ b) = mul3 a ^^^ mul3 b := by simp only [mul3, xtime_xor]; ac_rfl
theorem mul9_xor (a b : Byte) : mul9 (a ^^^ b) = mul9 a ^^^ mul9 b := by simp only [mul9, xtime_xor]; ac_rfl
theorem mul11_xor (a b : Byte) : mul11 (a ^^^ b) = mul11 a ^^^ mul11 b := by simp only [mul11, xtime_xor]; ac_rfl
theorem mul13_xor (a b : Byte) : mul13 (a ^^^ b) = mul13 a ^^^ mul13 b := by simp only [mul13, xtime_xor]; ac_rfl
theorem mul14_xor (a b : Byte) : mul14 (a ^^^ b) = mul14 a ^^^ mul14 b := by simp only [mul14, xtime_xor]; ac_rfl

/-- The first row of InvMixColumns against the columns of MixColumns: 1 on the diagonal, 0 elsewhere. -/
theorem invMix_row (a : Byte) :
    mul14 (xtime a) ^^^ mul11 a ^^^ mul13 a ^^^ mul9 (mul3 a) = a ∧
    mul14 (mul3 a) ^^^ mul11 (xtime a) ^^^ mul13 a ^^^ mul9 a = 0#8 ∧
    mul14 a ^^^ mul11 (mul3 a) ^^^ mul13 (xtime a) ^^^ mul9 a = 0#8 ∧
    mul14 a ^^^ mul11 a ^^^ mul13 (mul3 a) ^^^ mul9 (xtime a) = 0#8 := by
  revert a
  decide +kernel

/-- The first row of InvMixColumns of a mixed column is the column's first byte. The other rows and columns are this one,
rotated. -/
theorem invMix_mix_row (a0 a1 a2 a3 : Byte) :
    mul14 (xtime a0 ^^^ mul3 a1 ^^^ a2 ^^^ a3) ^^^ mul11 (xtime a1 ^^^ mul3 a2 ^^^ a3 ^^^ a0) ^^^
      mul13 (xtime a2 ^^^ mul3 a3 ^^^ a0 ^^^ a1) ^^^ mul9 (xtime a3 ^^^ mul3 a0 ^^^ a1 ^^^ a2) = a0 := by
  obtain ⟨h0, -, -, -⟩ := invMix_row a0
  obtain ⟨-, h1, -, -⟩ := invMix_row a1
  obtain ⟨-, -, h2, -⟩ := invMix_row a2
  obtain ⟨-, -, -, h3⟩ := invMix_row a3
  simp only [mul14_xor, mul11_xor, mul13_xor, mul9_xor]
  calc _ = (mul14 (xtime a0) ^^^ mul11 a0 ^^^ mul13 a0 ^^^ mul9 (mul3 a0)) ^^^
        (mul14 (mul3 a1) ^^^ mul11 (xtime a1) ^^^ mul13 a1 ^^^ mul9 a1) ^^^
        (mul14 a2 ^^^ mul11 (mul3 a2) ^^^ mul13 (xtime a2) ^^^ mul9 a2) ^^^
        (mul14 a3 ^^^ mul11 a3 ^^^ mul13 (mul3 a3) ^^^ mul9 (xtime a3)) := by ac_rfl
    _ = a0 := by rw [h0, h1, h2, h3]; simp only [BitVec.xor_zero]

/-! ## Transformations undone (R265) -/

theorem invSbox_sbox (a : Byte) : invSbox (sbox a) = a := by
  revert a
  decide +kernel

theorem invSubBytes_subBytes (s : Bytes) : invSubBytes (subBytes s) = s := by
  rw [invSubBytes, subBytes, List.map_map]
  exact (List.map_congr_left fun a _ => invSbox_sbox a).trans (List.map_id s)

theorem invShiftRows_shiftRows {s : Bytes} (h : s.length = 16) : invShiftRows (shiftRows s) = s := by
  match s, h with
  | [_, _, _, _, _, _, _, _, _, _, _, _, _, _, _, _], _ => rfl

theorem invMixColumn_mixColumn (a0 a1 a2 a3 : Byte) (s : Bytes) :
    invMixColumns (mixColumn a0 a1 a2 a3 ++ s) = a0 :: a1 :: a2 :: a3 :: invMixColumns s := by
  have c1 : a0 ^^^ xtime a1 ^^^ mul3 a2 ^^^ a3 = xtime a1 ^^^ mul3 a2 ^^^ a3 ^^^ a0 := by ac_rfl
  have c2 : a0 ^^^ a1 ^^^ xtime a2 ^^^ mul3 a3 = xtime a2 ^^^ mul3 a3 ^^^ a0 ^^^ a1 := by ac_rfl
  have c3 : mul3 a0 ^^^ a1 ^^^ a2 ^^^ xtime a3 = xtime a3 ^^^ mul3 a0 ^^^ a1 ^^^ a2 := by ac_rfl
  simp only [mixColumn, List.cons_append, List.nil_append, invMixColumns, invMixColumn, c1, c2, c3]
  rw [List.cons.injEq, List.cons.injEq, List.cons.injEq, List.cons.injEq]
  refine ⟨invMix_mix_row a0 a1 a2 a3, ?_, ?_, ?_, rfl⟩
  · refine Eq.trans ?_ (invMix_mix_row a1 a2 a3 a0); ac_rfl
  · refine Eq.trans ?_ (invMix_mix_row a2 a3 a0 a1); ac_rfl
  · refine Eq.trans ?_ (invMix_mix_row a3 a0 a1 a2); ac_rfl

theorem mixColumns_length (s : Bytes) (h : s.length % 4 = 0) : (mixColumns s).length = s.length := by
  match s, h with
  | [], _ => rfl
  | a0 :: a1 :: a2 :: a3 :: s, h =>
    have ih := mixColumns_length s (by simp only [List.length_cons] at h; omega)
    simp [mixColumns, mixColumn, ih]

theorem invMixColumns_mixColumns (s : Bytes) (h : s.length % 4 = 0) : invMixColumns (mixColumns s) = s := by
  match s, h with
  | [], _ => rfl
  | a0 :: a1 :: a2 :: a3 :: s, h =>
    rw [mixColumns, invMixColumn_mixColumn, invMixColumns_mixColumns s (by simp only [List.length_cons] at h; omega)]

@[simp] theorem subBytes_length (s : Bytes) : (subBytes s).length = s.length := List.length_map _
@[simp] theorem shiftRows_length (s : Bytes) : (shiftRows s).length = 16 := rfl
@[simp] theorem invShiftRows_length (s : Bytes) : (invShiftRows s).length = 16 := rfl
@[simp] theorem invSubBytes_length (s : Bytes) : (invSubBytes s).length = s.length := List.length_map _
@[simp] theorem xorBytes_length (a b : Bytes) : (xorBytes a b).length = min a.length b.length := List.length_zipWith

/-- A round key exclusive-ored twice is gone. -/
theorem xorBytes_xorBytes {s k : Bytes} (h : s.length = k.length) : xorBytes (xorBytes s k) k = s := by
  induction s generalizing k with
  | nil => rfl
  | cons a s ih =>
    cases k with
    | nil => cases h
    | cons b k =>
      have ih := ih (Nat.succ.inj h)
      unfold xorBytes at ih ⊢
      rw [List.zipWith_cons_cons, List.zipWith_cons_cons, ih, BitVec.xor_assoc, BitVec.xor_self, BitVec.xor_zero]

/-! ## The round keys have the length of a block (R264) -/

theorem nextRoundKey_length {k : Bytes} (h : k.length = 16) (rcon : Byte) : (nextRoundKey k rcon).length = 16 := by
  simp [nextRoundKey, h]

theorem roundKeysAfter_length (n : Nat) (key : Bytes) (rcon : Byte) (h : key.length = 16) :
    ∀ k ∈ roundKeysAfter n key rcon, k.length = 16 := by
  induction n generalizing key rcon with
  | zero => exact fun k hk => (nomatch hk)
  | succ n ih =>
    have hnext := nextRoundKey_length h rcon
    exact List.forall_mem_cons.mpr ⟨hnext, ih _ _ hnext⟩

theorem roundKeys_length {key : Bytes} (h : key.length = 16) : ∀ k ∈ roundKeys key, k.length = 16 :=
  roundKeysAfter_length 10 key 1#8 h

/-! ## The block functions (R266, R267) -/

theorem cipherRounds_length (ks : List Bytes) (s : Bytes) (hks : ∀ k ∈ ks, k.length = 16) (hs : s.length = 16) :
    (cipherRounds ks s).length = 16 := by
  match ks, hks with
  | [], _ => exact hs
  | [k], hks =>
    have hk := hks k (by simp)
    simp [cipherRounds, hk]
  | k :: k' :: ks, hks =>
    have hk := hks k (by simp)
    have hmix : (mixColumns (shiftRows (subBytes s))).length = 16 := mixColumns_length _ (by simp)
    refine cipherRounds_length (k' :: ks) _ (fun x hx => hks x (List.mem_cons_of_mem _ hx)) ?_
    simp [hmix, hk]

/-- Round by round, the last first: what a round of Cipher does the matching round of InvCipher undoes. -/
theorem invCipherRounds_cipherRounds (ks : List Bytes) (s : Bytes) (hks : ∀ k ∈ ks, k.length = 16) (hs : s.length = 16) :
    invCipherRounds ks (cipherRounds ks s) = s := by
  have hsub : (subBytes s).length = 16 := by simpa using hs
  match ks, hks with
  | [], _ => rfl
  | [k], hks =>
    have hk := hks k (by simp)
    rw [cipherRounds, invCipherRounds, xorBytes_xorBytes (by rw [shiftRows_length, hk]), invShiftRows_shiftRows hsub,
      invSubBytes_subBytes]
  | k :: k' :: ks, hks =>
    have hk := hks k (by simp)
    have hmix : (mixColumns (shiftRows (subBytes s))).length = 16 := mixColumns_length _ (by simp)
    rw [cipherRounds, invCipherRounds, invCipherRounds_cipherRounds (k' :: ks) _
        (fun x hx => hks x (List.mem_cons_of_mem _ hx)) (by simp [hmix, hk]),
      xorBytes_xorBytes (by rw [hmix, hk]), invMixColumns_mixColumns _ (by simp), invShiftRows_shiftRows hsub,
      invSubBytes_subBytes]

section
variable {key block : Bytes}

theorem cipher_length (hkey : key.length = 16) (hblock : block.length = 16) : (cipher key block).length = 16 :=
  cipherRounds_length _ _ (roundKeys_length hkey) (by simp [hkey, hblock])

theorem invCipher_cipher (hkey : key.length = 16) (hblock : block.length = 16) : invCipher key (cipher key block) = block := by
  rw [invCipher, cipher, invCipherRounds_cipherRounds _ _ (roundKeys_length hkey) (by simp [hkey, hblock]),
    xorBytes_xorBytes (by rw [hkey, hblock])]

theorem invCipherRounds_length (ks : List Bytes) (s : Bytes) (hs : s.length = 16) : (invCipherRounds ks s).length = 16 := by
  match ks with
  | [] => exact hs
  | [k] => simp [invCipherRounds]
  | k :: k' :: ks => simp [invCipherRounds]

theorem invCipher_length (hkey : key.length = 16) (hblock : block.length = 16) : (invCipher key block).length = 16 := by
  simp [invCipher, invCipherRounds_length _ _ hblock, hkey]

end

/-! ## Chaining (R256, R257) -/

theorem cbcEncrypt_length {key : Bytes} (n : Nat) (prev m : Bytes) (hkey : key.length = 16) (hprev : prev.length = 16)
    (hm : m.length = 16 * n) : (cbcEncrypt key n prev m).length = 16 * n := by
  induction n generalizing prev m with
  | zero => rfl
  | succ n ih =>
    have hc : (cipher key (xorBytes (m.take 16) prev)).length = 16 := cipher_length hkey (by simp [hprev]; omega)
    rw [cbcEncrypt, List.length_append, hc, ih _ _ hc (by simp; omega)]
    omega

/-- Block by block, the block before it exclusive-ored in both directions. -/
theorem cbcDecrypt_cbcEncrypt {key : Bytes} (n : Nat) (prev m : Bytes) (hkey : key.length = 16) (hprev : prev.length = 16)
    (hm : m.length = 16 * n) : cbcDecrypt key n prev (cbcEncrypt key n prev m) = m := by
  induction n generalizing prev m with
  | zero => exact (List.eq_nil_of_length_eq_zero (by omega)).symm
  | succ n ih =>
    have hblock : (m.take 16).length = 16 := by simp; omega
    have hx : (xorBytes (m.take 16) prev).length = 16 := by simp [hprev]; omega
    have hc : (cipher key (xorBytes (m.take 16) prev)).length = 16 := cipher_length hkey hx
    rw [cbcEncrypt, cbcDecrypt, List.take_left' hc, List.drop_left' hc, invCipher_cipher hkey hx,
      xorBytes_xorBytes (by rw [hblock, hprev]), ih _ _ hc (by simp; omega), List.take_append_drop]

theorem cbcDecrypt_length {key : Bytes} (n : Nat) (prev c : Bytes) (hkey : key.length = 16) (hprev : prev.length = 16)
    (hc : 16 * n ≤ c.length) : (cbcDecrypt key n prev c).length = 16 * n := by
  induction n generalizing prev c with
  | zero => rfl
  | succ n ih =>
    have hblock : (c.take 16).length = 16 := by simp; omega
    rw [cbcDecrypt, List.length_append, xorBytes_length, invCipher_length hkey hblock, hprev,
      ih _ _ hblock (by simp; omega)]
    omega

/-- Block `j` of the plaintext (R256). -/
theorem cbcDecrypt_block {key : Bytes} (n : Nat) (prev c : Bytes) (hkey : key.length = 16) (hprev : prev.length = 16)
    (hc : 16 * n ≤ c.length) {j : Nat} (hj : j < n) :
    ((cbcDecrypt key n prev c).drop (16 * j)).take 16 =
      xorBytes (invCipher key ((c.drop (16 * j)).take 16)) (((prev ++ c).drop (16 * j)).take 16) := by
  induction n generalizing prev c j with
  | zero => cases hj
  | succ n ih =>
    have hblock : (c.take 16).length = 16 := by simp; omega
    have hfirst : (xorBytes (invCipher key (c.take 16)) prev).length = 16 := by
      rw [xorBytes_length, invCipher_length hkey hblock, hprev]; rfl
    rw [cbcDecrypt]
    cases j with
    | zero => simp only [Nat.mul_zero, List.drop_zero, List.take_left' hfirst, List.take_left' hprev]
    | succ j =>
      have hskip {p w : Bytes} (hp : p.length = 16) : (p ++ w).drop (16 * (j + 1)) = w.drop (16 * j) := by
        rw [Nat.mul_succ, Nat.add_comm, ← List.drop_drop, List.drop_left' hp]
      have hcdrop : (c.drop 16).drop (16 * j) = c.drop (16 * (j + 1)) := by
        rw [List.drop_drop, Nat.mul_succ, Nat.add_comm]
      rw [hskip hfirst, hskip hprev, ih _ _ hblock (by simp; omega) (Nat.lt_of_succ_lt_succ hj), hcdrop,
        List.take_append_drop]

/-! ## Operations (R251 to R253) -/

theorem exec_aesDecrypt (key iv buf : Bytes) (p avail n : Nat) (s : State) :
    exec (.aesDecrypt key iv buf p avail n) s = execAesDecrypt key iv buf p avail n s := rfl
theorem exec_aesEncrypt (key iv m : Bytes) (s : State) : exec (.aesEncrypt key iv m) s = execAesEncrypt key iv m s := rfl

section
variable {key iv buf m : Bytes} {p avail n : Nat} {s : State}

/-- A key and an IV of 16 bytes pass the check of R251. -/
theorem not_badKeyOrIv (hkey : key.length = 16) (hiv : iv.length = 16) :
    ¬(key.length ≠ Config.keyLen ∨ iv.length ≠ Config.blockLen) := by simp [hkey, hiv, Config.keyLen, Config.blockLen]

theorem aesDecryptOp_of_lengths (hkey : key.length = 16) (hiv : iv.length = 16) :
    aesDecryptOp key iv buf p avail n = Run.ofDec (decryptWindow key iv buf p avail n) :=
  if_neg (not_badKeyOrIv hkey hiv)

theorem execAesDecrypt_of_ok (hkey : key.length = 16) (hiv : iv.length = 16)
    (h : decryptWindow key iv buf p avail n = .ok m) : execAesDecrypt key iv buf p avail n s = .next (s.respond (.bytes m)) :=
  conclude_map_ok (by rw [aesDecryptOp_of_lengths hkey hiv, h]; rfl)

theorem execAesDecrypt_of_error {c : Cause} (hkey : key.length = 16) (hiv : iv.length = 16)
    (h : decryptWindow key iv buf p avail n = .error c) : execAesDecrypt key iv buf p avail n s = .next (s.raise c) :=
  conclude_map_raised (by rw [aesDecryptOp_of_lengths hkey hiv, h]; rfl)

theorem execAesDecrypt_of_bad_lengths (h : key.length ≠ 16 ∨ iv.length ≠ 16) :
    execAesDecrypt key iv buf p avail n s = .refused .badKeyOrIvLength :=
  conclude_map_refused (if_pos h)

theorem execAesEncrypt_of_bad_lengths (h : key.length ≠ 16 ∨ iv.length ≠ 16) :
    execAesEncrypt key iv buf s = .refused .badKeyOrIvLength :=
  conclude_map_refused (if_pos h)

theorem execAesEncrypt_of_blocks (hkey : key.length = 16) (hiv : iv.length = 16) (hm : m.length % 16 = 0) :
    execAesEncrypt key iv m s = .next (s.respond (.bytes (cbcEncrypt key (m.length / 16) iv m))) :=
  conclude_map_ok (by rw [aesEncryptOp, if_neg (not_badKeyOrIv hkey hiv), if_neg (not_not.mpr hm)])

theorem execAesEncrypt_of_no_blocks (hkey : key.length = 16) (hiv : iv.length = 16) (hm : m.length % 16 ≠ 0) :
    execAesEncrypt key iv m s = .refused .plaintextNotBlockMultiple :=
  conclude_map_refused (by rw [aesEncryptOp, if_neg (not_badKeyOrIv hkey hiv), if_pos hm])

end

/-- Settles O31: `cbcDecrypt_cbcEncrypt`, over the window that is all of the ciphertext. -/
theorem aesDecryptMirrorsAesEncrypt : Obligations.AesDecryptMirrorsAesEncrypt := by
  intro key iv m s hkey hiv hm
  have hblocks : m.length = 16 * (m.length / 16) := by omega
  have hlen := cbcEncrypt_length (m.length / 16) iv m hkey hiv hblocks
  refine ⟨cbcEncrypt key (m.length / 16) iv m, ?_, by omega, ?_⟩
  · rw [exec_aesEncrypt, execAesEncrypt_of_blocks hkey hiv hm]
  · rw [exec_aesDecrypt]
    refine execAesDecrypt_of_ok hkey hiv (decryptWindow_ok.mpr ⟨by omega, by omega, ?_⟩)
    rw [List.drop_zero, List.take_length, cbcDecrypt_cbcEncrypt _ _ _ hkey hiv hblocks]

/-- Settles O32: the window by `decryptWindow_ok`, its blocks by `cbcDecrypt_block`; the checks in the order of the
definitions. -/
theorem aesDecryptChainsBlocks : Obligations.AesDecryptChainsBlocks := by
  refine ⟨fun key iv front c rest back n s hkey hiv hc => ?chained, fun key iv buf p avail n s =>
    ⟨fun hbad => ?lengths, fun hkey hiv hwin hcount => ?count, fun hkey hiv hwin => ?window, fun hkey hiv hlen => ?plain⟩⟩
  case chained =>
    have hw : ((front ++ c ++ rest ++ back).drop front.length).take (c.length + rest.length) = c ++ rest := by
      rw [List.append_assoc, List.append_assoc, List.drop_left, ← List.append_assoc, List.take_left' (by simp)]
    have hlong : 16 * n ≤ (c ++ rest).length := by simp; omega
    refine ⟨cbcDecrypt key n iv (c ++ rest), ?_, cbcDecrypt_length n iv _ hkey hiv hlong, fun j hj => ?_⟩
    · rw [exec_aesDecrypt]
      exact execAesDecrypt_of_ok hkey hiv (decryptWindow_ok.mpr ⟨by simp, by omega, by rw [hw]⟩)
    · have hblock (w : Bytes) (hlen : 16 * j + 16 ≤ w.length) :
          ((w ++ rest).drop (16 * j)).take 16 = (w.drop (16 * j)).take 16 := by
        rw [List.drop_append_of_le_length (by omega), List.take_append_of_le_length (by rw [List.length_drop]; omega)]
      rw [cbcDecrypt_block n iv _ hkey hiv hlong hj, hblock c (by omega), ← List.append_assoc, hblock (iv ++ c) (by simp; omega)]
      rfl
  case lengths =>
    rw [exec_aesDecrypt, exec_aesEncrypt]
    exact ⟨execAesDecrypt_of_bad_lengths hbad, execAesEncrypt_of_bad_lengths hbad⟩
  case count =>
    rw [exec_aesDecrypt]
    exact execAesDecrypt_of_error hkey hiv (decryptWindow_error.mpr (.inr ⟨hwin, by omega, rfl⟩))
  case window =>
    rw [exec_aesDecrypt]
    exact execAesDecrypt_of_error hkey hiv (decryptWindow_error.mpr (.inl ⟨hwin, rfl⟩))
  case plain =>
    rw [exec_aesEncrypt]
    exact execAesEncrypt_of_no_blocks hkey hiv hlen

end Sys2Proof.Machine

/-! The failures of the parts of an operation (60_exceptions.md R470): what a reader, a receive or an operand form can raise. -/

namespace Sys2Proof.Machine

/-! ## Readers -/

theorem readSaLl_failsIn (w : Bytes) : Dec.FailsIn [.truncatedBuffer, .bcdInvalidNibble] (readSaLl w) :=
  ((memRead_failsIn 8 w).mono (by decide)).bind fun ⟨raw, _⟩ =>
    (((bcdDecode_failsIn ((raw.drop 2).take 4)).mono (by decide)).bind fun _ => Dec.failsIn_ok _).bind fun _ =>
      Dec.failsIn_ok _

theorem recordAt_failsIn (p : Params) (buf : Bytes) (off len : Nat) : Dec.FailsIn recordCauses (recordAt p buf off len) :=
  ((window_failsIn buf off len).mono (by decide)).bind fun w => (readRecord_failsIn p w).bind fun _ => Dec.failsIn_ok _

/-- The failures of a wireless header (46_wireless_frame.md R382). -/
def headerCauses : List Cause := [.truncatedBuffer, .wirelessLengthExceedsBuffer, .bcdInvalidNibble]

theorem wlHeader_failsIn (buf : Bytes) : Dec.FailsIn headerCauses (wlHeader buf) := by
  refine ((memReadByte_failsIn buf).mono (by decide)).bind fun ⟨length, w⟩ => ?_
  show Dec.FailsIn headerCauses (if _ then _ else if _ then _ else _)
  split
  · exact Dec.failsIn_error (by decide)
  · split
    · exact Dec.failsIn_error (by decide)
    · exact ((memReadByte_failsIn w).mono (by decide)).bind fun ⟨_, w⟩ =>
        ((readSaLl_failsIn w).mono (by decide)).bind fun _ => Dec.failsIn_ok _

theorem checkLongFrame_failsIn (enforce : Bool) (l : Byte) (f : Bytes) :
    Dec.FailsIn [.malformedFrame] (checkLongFrame enforce l f) := by
  unfold checkLongFrame
  split
  · exact Dec.failsIn_error (by decide)
  · split
    · exact Dec.failsIn_error (by decide)
    · exact Dec.failsIn_ok _

/-- The failures of a frame in a buffer (45_wired_frame.md R334). -/
def frameCauses : List Cause := [.truncatedBuffer, .unexpectedByte, .malformedFrame]

theorem decFrameOf_failsIn (enforce : Bool) (buf : Bytes) : Dec.FailsIn frameCauses (decFrameOf enforce buf) := by
  refine ((memReadByte_failsIn buf).mono (by decide)).bind fun ⟨b, w⟩ => ?_
  show Dec.FailsIn frameCauses (if _ then _ else if _ then _ else _)
  split
  · exact Dec.failsIn_ok _
  · split
    · exact Dec.failsIn_error (by decide)
    · exact ((memReadByte_failsIn w).mono (by decide)).bind fun ⟨l, _⟩ =>
        ((memRead_failsIn _ buf).mono (by decide)).bind fun ⟨f, _⟩ =>
          ((checkLongFrame_failsIn enforce l f).mono (by decide)).bind fun _ => Dec.failsIn_ok _

theorem readLongFormat_failsIn (enforce : Bool) (buf : Bytes) : Dec.FailsIn frameCauses (readLongFormat enforce buf) := by
  refine ((memReadByte_failsIn buf).mono (by decide)).bind fun ⟨b, _⟩ => ?_
  show Dec.FailsIn frameCauses (if _ then _ else _)
  split
  · exact Dec.failsIn_error (by decide)
  · exact decFrameOf_failsIn enforce buf

theorem decShortOf_failsIn (buf : Bytes) : Dec.FailsIn [.truncatedBuffer, .unexpectedByte] (decShortOf buf) := by
  refine ((memRead_failsIn 5 buf).mono (by decide)).bind fun ⟨f, _⟩ => ?_
  show Dec.FailsIn _ (if _ then _ else _)
  split
  · exact Dec.failsIn_error (by decide)
  · exact Dec.failsIn_ok _

theorem leadByteOf_failsIn (b : Byte) : Dec.FailsIn [.unexpectedByte] (leadByteOf b) := by
  unfold leadByteOf
  split
  · exact Dec.failsIn_ok _
  · split
    · exact Dec.failsIn_ok _
    · exact Dec.failsIn_error (by decide)

theorem readField_failsIn {causes : List Cause} {r : Bytes → Dec (DataValue × Bytes)} {buf : Bytes}
    (h : Dec.FailsIn causes (r buf)) : Dec.FailsIn causes (readField r buf) :=
  h.bind fun _ => Dec.failsIn_ok _

theorem readVib_failsIn (p : Params) (buf : Bytes) :
    Dec.FailsIn [.truncatedBuffer, .unrecognisedDifVif] (readVib p buf) :=
  ((chain_failsIn buf).mono (by decide)).bind fun ⟨vib, _⟩ =>
    ((vifLookup_failsIn p vib).mono (by decide)).bind fun _ => Dec.failsIn_ok _

/-! ## Receives (45_wired_frame.md R340) -/

theorem rxOnce_failsIn (s : State) : Dec.FailsIn receiveCauses (rxOnce s).1 := by
  unfold rxOnce
  match s.tpReadByte with
  | (none, t) => exact Dec.failsIn_error (by decide)
  | (some b, t) =>
    dsimp only
    split
    · exact Dec.failsIn_ok _
    · split
      · exact Dec.failsIn_error (by decide)
      · match t.tpReadByte with
        | (none, u) => exact Dec.failsIn_error (by decide)
        | (some l, u) =>
          dsimp only
          match u.tpReadExactly (l.toNat + 4) with
          | (bs, v) =>
            dsimp only
            split
            · exact Dec.failsIn_error (by decide)
            · have hcheck := (checkLongFrame_failsIn v.params.rxEnforceIntegrity l (b :: l :: bs)).mono
                (show [Cause.malformedFrame] ⊆ receiveCauses by decide)
              split
              · next hc => exact Dec.failsIn_error (hcheck _ hc)
              · exact Dec.failsIn_ok _

theorem rxLoop_failsIn (fuel : Nat) (s : State) : Dec.FailsIn receiveCauses (rxLoop fuel s).1 := by
  induction fuel generalizing s with
  | zero => exact Dec.failsIn_error (by decide)
  | succ n ih =>
    have honce := rxOnce_failsIn s
    rw [rxLoop]
    split
    · next hr =>
      rw [hr] at honce
      exact Dec.failsIn_error (honce _ rfl)
    · split
      · exact ih _
      · exact Dec.failsIn_ok _

theorem rxFrame_failsIn (s : State) : Dec.FailsIn receiveCauses (rxFrame s).1 := rxLoop_failsIn _ s

theorem exchange_failsIn (f : Bytes) (g : State → State) (s : State) : Dec.FailsIn receiveCauses (exchange f g s).1 :=
  rxFrame_failsIn _

/-- The failures of LNK.READ (R350). -/
def readCauses : List Cause := receiveCauses ++ [.unexpectedResponse, .wrongMessageType] ++ vdsCauses

theorem readAnswer_failsIn (fr : WiredFrame) (s : State) : Dec.FailsIn readCauses (readAnswer fr s) := by
  match fr with
  | .singleCharacter => exact Dec.failsIn_error (by decide)
  | .long fr =>
    show Dec.FailsIn readCauses (if _ then _ else _)
    split
    · exact (vdsBody_failsIn s.params s.keymap _).mono (List.subset_append_right _ _)
    · exact Dec.failsIn_error (by decide)

theorem readExchange_failsIn (a : Byte) (s : State) : Dec.FailsIn readCauses (readExchange a s).1 := by
  unfold readExchange
  have hreceive := exchange_failsIn (encShortFrame (reqUd2Control (fcbGet s.fcb a)) a)
    (fun s => s.setFcb (fcbToggle s.fcb a)) s
  split
  · exact readAnswer_failsIn _ _
  · next hx =>
    rw [hx] at hreceive
    exact Dec.failsIn_error ((show receiveCauses ⊆ readCauses by decide) (hreceive _ rfl))

/-! ## Parts of an operation -/

/-- Every exception the part raises has one of these causes. -/
def Run.RaisesIn {α : Type} (causes : List Cause) (r : Run α) : Prop := ∀ c, r = .error (.raised c) → c ∈ causes

section
variable {α β : Type} {causes : List Cause}

theorem Run.raisesIn_ok (a : α) : Run.RaisesIn causes (.ok a : Run α) := fun _ h => nomatch h
theorem Run.raisesIn_refused (x : Refusal) : Run.RaisesIn causes (.error (.refused x) : Run α) := fun _ h => nomatch h
theorem Run.raisesIn_faulted (x : Fault) : Run.RaisesIn causes (.error (.faulted x) : Run α) := fun _ h => nomatch h

theorem Run.RaisesIn.bind {r : Run α} {f : α → Run β} (h : Run.RaisesIn causes r) (hf : ∀ a, Run.RaisesIn causes (f a)) :
    Run.RaisesIn causes (r >>= f) := by
  intro c hc
  obtain hr | ⟨a, -, ha⟩ := Run.bind_error.mp hc
  · exact h c hr
  · exact hf a c ha

theorem Run.RaisesIn.ite {p : Prop} [Decidable p] {r r' : Run α} (h : Run.RaisesIn causes r) (h' : Run.RaisesIn causes r') :
    Run.RaisesIn causes (if p then r else r') := by
  split
  · exact h
  · exact h'

/-- What a decoder fails with the operation raises (R464). -/
theorem Dec.FailsIn.run {d : Dec α} (h : Dec.FailsIn causes d) : Run.RaisesIn causes (Run.ofDec d) := by
  intro c hc
  obtain ⟨c', hd, hc'⟩ := Run.ofDec_error.mp hc
  cases hc'
  exact h c hd

end

/-! ## Parts that raise nothing: operand forms, conditions on the session, refusals of a range -/

section
variable {causes : List Cause}

theorem objAt_raisesIn {α : Type} (l : List α) (n : Nat) : Run.RaisesIn causes (objAt l n) := by
  intro c h
  cases (objAt_error.mp h).2

theorem present_raisesIn {α : Type} (o : Option α) : Run.RaisesIn causes (present o) := by
  intro c h
  cases (present_error.mp h).2

theorem decodedVds_raisesIn (s : State) (n : Nat) : Run.RaisesIn causes (decodedVds s n) :=
  (objAt_raisesIn _ _).bind fun v => (Run.raisesIn_ok v).ite (Run.raisesIn_faulted .noSuchObject)

theorem saAt_raisesIn (s : State) (r : SaRef) : Run.RaisesIn causes (saAt s r) := by
  intro c h
  cases saAt_error h

theorem recAt_raisesIn (s : State) (r : RecRef) : Run.RaisesIn causes (recAt s r) := by
  cases r with
  | obj n => exact objAt_raisesIn _ _
  | ofVds v k => exact (decodedVds_raisesIn s v).bind fun v => objAt_raisesIn _ _

theorem bcdAt_raisesIn (s : State) (r : BcdRef) : Run.RaisesIn causes (bcdAt s r) := by
  cases r with
  | obj n => exact objAt_raisesIn _ _
  | deviceId a => exact (saAt_raisesIn s a).bind fun _ => Run.raisesIn_ok _
  | dataValue x => exact (recAt_raisesIn s x).bind fun _ => present_raisesIn _

theorem rawAt_raisesIn (s : State) (k : AddrKey) : Run.RaisesIn causes (rawAt s k) := by
  cases k with
  | raw x => exact Run.raisesIn_ok _
  | sa a => exact (saAt_raisesIn s a).bind fun _ => Run.raisesIn_ok _

theorem optSaAt_raisesIn (s : State) (r : Option SaRef) : Run.RaisesIn causes (optSaAt s r) := by
  have href (r : SaRef) : Run.RaisesIn causes (saAt s r >>= fun a => .ok (some a)) :=
    (saAt_raisesIn s r).bind fun _ => Run.raisesIn_ok _
  match r with
  | none => exact Run.raisesIn_ok _
  | some (.ofVds n) => exact (decodedVds_raisesIn s n).bind fun _ => Run.raisesIn_ok _
  | some (.obj n) => exact href (.obj n)
  | some (.ofMsg n) => exact href (.ofMsg n)
  | some (.found k) => exact href (.found k)

theorem needLink_raisesIn (s : State) : Run.RaisesIn causes (needLink s) := fun c h => absurd h (needLink_ne_raised s c)

theorem needTransport_raisesIn (s : State) : Run.RaisesIn causes (needTransport s) :=
  (Run.raisesIn_ok ()).ite (Run.raisesIn_faulted .noTransport)

theorem needScanner_raisesIn (s : State) : Run.RaisesIn causes (needScanner s) :=
  (Run.raisesIn_ok ()).ite (Run.raisesIn_faulted .noScanner)

theorem needSendable_raisesIn (f : Bytes) : Run.RaisesIn causes (needSendable f) :=
  (Run.raisesIn_refused .singleCharacterOnlyReceived).ite (Run.raisesIn_ok ())

theorem keyAddAt_raisesIn (sa : SaRef) (key : Bytes) (s : State) : Run.RaisesIn causes (keyAddAt sa key s) :=
  (Run.raisesIn_refused _).ite ((saAt_raisesIn s sa).bind fun _ => Run.raisesIn_ok _)

theorem bcdInt_raisesIn (x : Bcd) : Run.RaisesIn causes (bcdInt x) := (Run.raisesIn_ok _).ite (Run.raisesIn_refused _)
theorem bcdLong_raisesIn (x : Bcd) : Run.RaisesIn causes (bcdLong x) := (Run.raisesIn_ok _).ite (Run.raisesIn_refused _)

theorem bcdEncode_raisesIn (v : Int) (n : Nat) : Run.RaisesIn causes (bcdEncode v n) :=
  (Run.raisesIn_refused _).ite
    (.ite ((Run.raisesIn_refused _).ite (Run.raisesIn_ok _)) ((Run.raisesIn_refused _).ite (Run.raisesIn_ok _)))

theorem manEncode_raisesIn (str : List Char) : Run.RaisesIn causes (manEncode str) := by
  unfold manEncode
  split
  · exact (Run.raisesIn_ok _).ite (Run.raisesIn_refused _)
  · exact Run.raisesIn_ok _

theorem scaledValue_raisesIn (r : DataRecord) : Run.RaisesIn causes (scaledValue r) := by
  unfold scaledValue
  split
  case h_3 => exact (bcdLong_raisesIn _).bind fun _ => Run.raisesIn_ok _
  all_goals exact Run.raisesIn_ok _

theorem aesEncryptOp_raisesIn (key iv m : Bytes) : Run.RaisesIn causes (aesEncryptOp key iv m) :=
  (Run.raisesIn_refused _).ite ((Run.raisesIn_refused _).ite (Run.raisesIn_ok _))

theorem encLongOp_raisesIn (c a ci : Byte) (data : Bytes) : Run.RaisesIn causes (encLongOp c a ci data) :=
  (Run.raisesIn_refused _).ite (Run.raisesIn_ok _)

theorem maskFlipOp_raisesIn (m : List Char) : Run.RaisesIn causes (maskFlipOp m) := by
  unfold maskFlipOp
  split
  · exact Run.raisesIn_ok _
  · exact Run.raisesIn_refused _

theorem scanInitOp_raisesIn (zero : Bool) (m : List Char) : Run.RaisesIn causes (scanInitOp zero m) := by
  unfold scanInitOp
  split
  · exact Run.raisesIn_refused _
  · split
    · exact Run.raisesIn_ok _
    · exact Run.raisesIn_refused _

theorem scanNarrowOp_raisesIn (s : State) : Run.RaisesIn causes (scanNarrowOp s) :=
  (needScanner_raisesIn s).bind fun _ => (Run.raisesIn_ok _).ite (Run.raisesIn_refused _)

/-- SA.BUILD makes a whole address, or it is refused: it reads back what it has encoded, and that is a packed decimal
(41_secondary_address.md R172). -/
theorem saBuildOp_cases (man : List Char) (v : Int) (ver typ : Byte) (order : SaOrder) :
    (∃ a, saBuildOp man v ver typ order = .ok a ∧ a.whole) ∨ ∃ x, saBuildOp man v ver typ order = .error (.refused x) := by
  by_cases hfits : FitsBcd v 4
  · obtain ⟨id, x, hid, hlen, hx, -⟩ := bcdEncode_of_fits (by omega) hfits
    obtain ⟨m0, m1, hman⟩ | hman := manEncode_cases man
    · exact .inl ⟨_, saBuildOp_of_parts hid hman hlen hx, builtAddress_whole ((bcdDecode_bytes hx).1 ▸ hlen)⟩
    · exact .inr ⟨_, saBuildOp_of_man_refused hid hman⟩
  · exact .inr ⟨_, saBuildOp_of_id_refused (bcdEncode_of_not_fits (by omega) hfits)⟩

theorem saBuildOp_raisesIn (man : List Char) (v : Int) (ver typ : Byte) (order : SaOrder) :
    Run.RaisesIn causes (saBuildOp man v ver typ order) := by
  intro c hc
  obtain ⟨a, h, -⟩ | ⟨x, h⟩ := saBuildOp_cases man v ver typ order <;> rw [h] at hc <;> cases hc

theorem bcdDecodeOp_raisesIn (b : Bytes) : Run.RaisesIn [.bcdInvalidNibble] (bcdDecodeOp b) :=
  (Run.raisesIn_refused _).ite (bcdDecode_failsIn b).run

/-- AES.DECRYPT fails with the failure its window or its block count leaves (R463, 20_memory.md R65). -/
theorem aesDecryptOp_raisesIn (key iv buf : Bytes) (p avail n : Nat) :
    Run.RaisesIn (causesOf (.aesDecrypt key iv buf p avail n)) (aesDecryptOp key iv buf p avail n) := by
  refine (Run.raisesIn_refused _).ite (Dec.FailsIn.run fun c hc => ?_)
  show c ∈ if buf.length < p + avail then _ else _
  obtain ⟨hlong, rfl⟩ | ⟨hwindow, -, rfl⟩ := decryptWindow_error.mp hc
  · rw [if_pos hlong]
    exact List.mem_singleton.mpr rfl
  · rw [if_neg (by omega)]
    exact List.mem_singleton.mpr rfl

end

end Sys2Proof.Machine

/-! What an operation has written before it answers: the transport, the scanner, one object or one table, by the row it
belongs to. The invariants and the safety statements are read off this list. -/

namespace Sys2Proof.Machine

/-! ## The scanner moves (48_scanner.md R428 to R438) -/

/-- `u` is `sc` after moves of a scan: aborts, advances, narrowings, finds of new addresses, and the end of the scan. -/
inductive Scanner.Moved (sc : Scanner) : Scanner → Prop where
  | refl : Scanner.Moved sc sc
  | abort {u : Scanner} (h : Scanner.Moved sc u) : Scanner.Moved sc u.abort
  | adv {u : Scanner} (h : Scanner.Moved sc u) : Scanner.Moved sc u.adv
  | narrow {u : Scanner} (h : Scanner.Moved sc u) (hpos : u.pos < 7) : Scanner.Moved sc u.narrow
  | record {u : Scanner} {a : SecondaryAddress} (h : Scanner.Moved sc u) (ha : a.whole)
      (hnew : ∀ e ∈ u.found, e.raw ≠ a.raw) : Scanner.Moved sc (u.record a)
  | ended {u : Scanner} (h : Scanner.Moved sc u) : Scanner.Moved sc { u with running := false }

theorem Scanner.Moved.trans {a b c : Scanner} (h : a.Moved b) (h' : b.Moved c) : a.Moved c := by
  induction h' with
  | refl => exact h
  | abort _ ih => exact ih.abort
  | adv _ ih => exact ih.adv
  | narrow _ hpos ih => exact ih.narrow hpos
  | record _ ha hnew ih => exact ih.record ha hnew
  | ended _ ih => exact ih.ended

theorem State.Received.moved {s t : State} (h : State.Received s t) : s.scanner.Moved t.scanner := by
  obtain hsame | habort := h.scanner
  · rw [hsame]; exact .refl
  · rw [habort]; exact .abort .refl

/-! ## One exchange (45_wired_frame.md R346, R360) -/

/-- `u` is `s` after one frame was sent and the transport was read: LASTTX is the frame, LINK is Idle, FCB is `fcb`. -/
structure State.Exchanged (s : State) (f : Bytes) (fcb : BitVec 256) (u : State) : Prop where
  taken : ∃ es, s.tpIn = es ++ u.tpIn
  scanner : u.scanner = s.scanner ∨ u.scanner = s.scanner.abort
  others : u = { s with
    tpIn := u.tpIn, scanner := u.scanner, tpOut := s.tpOut ++ [f], lastTx := some f, link := .idle, fcb := fcb }

theorem State.Exchanged.moved {s u : State} {f : Bytes} {fcb : BitVec 256} (h : State.Exchanged s f fcb u) :
    s.scanner.Moved u.scanner := by
  obtain hsame | habort := h.scanner
  · rw [hsame]; exact .refl
  · rw [habort]; exact .abort .refl

theorem State.Received.exchanged {s t : State} {f : Bytes} {fcb : BitVec 256}
    (h : State.Received (((s.transmit f).setLink .awaitingResponse).setFcb fcb) t) :
    State.Exchanged s f fcb (t.setLink .idle) := by
  refine ⟨h.taken, h.scanner, ?_⟩
  rw [h.others]
  rfl

theorem readExchange_exchanged (a : Byte) (s : State) :
    State.Exchanged s (encShortFrame (reqUd2Control (fcbGet s.fcb a)) a) (fcbToggle s.fcb a) (readExchange a s).2 := by
  obtain ⟨t, hreceived, ht⟩ := readExchange_spec a s
  rw [ht]
  exact hreceived.exchanged

theorem scanselExchange_exchanged (f : Bytes) (s : State) :
    State.Exchanged s f s.fcb (scanselExchange f s).2 := by
  obtain ⟨t, hreceived, ht⟩ := scanselExchange_spec f s
  rw [ht]
  exact State.Received.exchanged (fcb := s.fcb) hreceived

/-- A VDS that LNK.READ makes has no link-layer address, and no other address than SA.LH made (R350). -/
theorem readExchange_ok {a : Byte} {s : State} {v : Vds} (h : (readExchange a s).1 = .ok v) :
    v.llAddr = none ∧ ∀ x, v.secondaryAddress = some x → x.whole := by
  unfold readExchange at h
  split at h
  · next fr t _ =>
    match fr, h with
    | .long fr, h =>
      unfold readAnswer at h
      dsimp only at h
      split at h
      · obtain ⟨-, -, -, -, hll, -, hwhole⟩ := vdsBody_ok h
        exact ⟨hll, hwhole⟩
      · cases h
  · cases h

/-! ## A scan (48_scanner.md R434, R436) -/

/-- The frames of a scan: scan selections, and reads of `0xFD`. -/
def ScanFrame (p : Params) (f : Bytes) : Prop :=
  (∃ wild, wild.length = 8 ∧ f = encLongFrame p.cSndUdSel 0xFD#8 0x52#8 wild) ∨
    f = shortFrame 0x7B#8 0xFD#8 ∨ f = shortFrame 0x5B#8 0xFD#8

theorem encShortFrame_eq_shortFrame (c a : Byte) : encShortFrame c a = shortFrame c a := encShortFrame_eq c a

theorem probeFrame_scanFrame (s : State) : ScanFrame s.params (probeFrame s) :=
  .inl ⟨_, packWild_length _, rfl⟩

theorem readFrame_scanFrame (p : Params) (b : Bool) : ScanFrame p (encShortFrame (reqUd2Control b) 0xFD#8) := by
  rw [encShortFrame_eq_shortFrame]
  cases b
  · exact .inr (.inr rfl)
  · exact .inr (.inl rfl)

/-- `u` is `s` after a part of a scan. -/
structure State.Scanned (s u : State) : Prop where
  taken : ∃ es, s.tpIn = es ++ u.tpIn
  moved : s.scanner.Moved u.scanner
  sent : ∃ fs, u.tpOut = s.tpOut ++ fs ∧ ∀ f ∈ fs, ScanFrame s.params f
  lastTx : u.lastTx = s.lastTx ∨ ∃ f, u.lastTx = some f ∧ ScanFrame s.params f
  link : s.link = .idle → u.link = .idle
  fcb : ∀ b, b ≠ 0xFD#8 → fcbGet u.fcb b = fcbGet s.fcb b
  others : u = { s with
    tpIn := u.tpIn, scanner := u.scanner, tpOut := u.tpOut, lastTx := u.lastTx, link := u.link, fcb := u.fcb
    evts := u.evts, free := u.free }

theorem State.Scanned.params {s u : State} (h : State.Scanned s u) : u.params = s.params := by rw [h.others]

theorem State.Scanned.trans {s t u : State} (h : State.Scanned s t) (h' : State.Scanned t u) : State.Scanned s u where
  taken := by
    obtain ⟨es, hes⟩ := h.taken
    obtain ⟨es', hes'⟩ := h'.taken
    exact ⟨es ++ es', by rw [hes, hes', List.append_assoc]⟩
  moved := h.moved.trans h'.moved
  sent := by
    obtain ⟨fs, hfs, hrow⟩ := h.sent
    obtain ⟨fs', hfs', hrow'⟩ := h'.sent
    refine ⟨fs ++ fs', by rw [hfs', hfs, List.append_assoc], fun f hf => ?_⟩
    obtain hf | hf := List.mem_append.mp hf
    · exact hrow f hf
    · exact h.params ▸ hrow' f hf
  lastTx := by
    obtain hlast | ⟨f, hlast, hf⟩ := h'.lastTx
    · rw [hlast]; exact h.lastTx
    · exact .inr ⟨f, hlast, h.params ▸ hf⟩
  link := h'.link ∘ h.link
  fcb b hb := (h'.fcb b hb).trans (h.fcb b hb)
  others := by
    rw [h'.others, h.others]

/-- Moves of the scanner and events are a part of a scan. -/
theorem State.Scanned.of_moved {s : State} {sc : Scanner} (h : s.scanner.Moved sc) (evts : List Event) (free : Nat) :
    State.Scanned s { s with scanner := sc, evts := evts, free := free } :=
  ⟨⟨[], rfl⟩, h, ⟨[], (List.append_nil _).symm, fun _ hf => nomatch hf⟩, .inl rfl, id, fun _ _ => rfl, rfl⟩

theorem State.Received.scanned {s t : State} (h : State.Received s t) : State.Scanned s t := by
  obtain ⟨-, -, -, hfcb, -, hlast, hlink, -, -, -, -, -, hout, -⟩ := h.fields
  refine ⟨h.taken, h.moved, ⟨[], by rw [hout, List.append_nil], fun _ hf => nomatch hf⟩, .inl hlast,
    fun hidle => hlink.trans hidle, fun b _ => by rw [hfcb], ?_⟩
  rw [h.others]

theorem State.Exchanged.scanned {s u : State} {f : Bytes} {fcb : BitVec 256} (h : State.Exchanged s f fcb u)
    (hf : ScanFrame s.params f) (hfcb : ∀ b, b ≠ 0xFD#8 → fcbGet fcb b = fcbGet s.fcb b) : State.Scanned s u := by
  refine ⟨h.taken, h.moved, ⟨[f], ?_, fun g hg => List.mem_singleton.mp hg ▸ hf⟩, .inr ⟨f, ?_, hf⟩, fun _ => ?_,
    fun b hb => ?_, ?_⟩
  all_goals rw [h.others]
  exact hfcb b hb

theorem readExchange_scanned (s : State) : State.Scanned s (readExchange 0xFD#8 s).2 :=
  (readExchange_exchanged 0xFD#8 s).scanned (readFrame_scanFrame _ _) fun _ hb => fcbGet_fcbToggle_of_ne hb s.fcb

theorem probe_scanned {f : Bytes} {s : State} (hf : ScanFrame s.params f) : State.Scanned s (probe f s).2 := by
  have hsent := (scanselExchange_exchanged f s).scanned hf fun _ _ => rfl
  rw [probe_eq]
  split
  · exact hsent.trans (readExchange_scanned _)
  · exact hsent

/-- An address that a probe finds is whole (R434). -/
theorem probe_one_whole {f : Bytes} {s : State} {a : SecondaryAddress} (h : (probe f s).1 = .one a) : a.whole := by
  rw [probe_eq] at h
  split at h
  · generalize hread : (readExchange Config.selAddr (scanselExchange f s).2).1 = r at h
    unfold readOutcome at h
    split at h
    · cases h
    · split at h
      · next v _ x hx =>
        split at h
        · cases h
          exact (readExchange_ok hread).2 _ hx
        · cases h
      · cases h
  · cases h

theorem State.scanMessage_eq (s : State) : ∃ evts, s.scanMessage = { s with evts := evts, free := s.free + 1 } := by
  unfold State.scanMessage
  rw [State.emit_eq]
  exact ⟨_, rfl⟩

/-- Recording an address keeps it out if it is there already. -/
theorem State.found_moved {a : SecondaryAddress} (ha : a.whole) (s : State) : s.scanner.Moved (s.found a).scanner := by
  obtain ⟨evts, -, hscanner⟩ := State.found_eq a s
  rw [hscanner]
  split
  · exact .refl
  · next hnew =>
    refine .record .refl ha fun e he heq => hnew (List.any_eq_true.mpr ⟨e, he, ?_⟩)
    rw [saEq, heq, beq_self_eq_true]

theorem scanMove_scanned {o : ScanOutcome} (ho : ∀ a, o = .one a → a.whole) (s : State) : State.Scanned s (scanMove o s) := by
  cases o with
  | noAnswer => exact .of_moved (.adv .refl) s.evts s.free
  | one a =>
    obtain ⟨evts, hfound, -⟩ := State.found_eq a s
    have hmoved := (s.found_moved (ho a rfl)).adv
    rw [scanMove]
    generalize (s.found a).scanner = sc at hfound hmoved
    rw [hfound]
    exact .of_moved hmoved evts s.free
  | collision =>
    refine .of_moved ?_ s.evts s.free
    split
    · next hpos => exact .narrow .refl hpos
    · exact .adv .refl

theorem scanStep_scanned (s : State) : State.Scanned s (scanStep s) := by
  have hmessage (t : State) : State.Scanned t t.scanMessage := by
    obtain ⟨evts, h⟩ := State.scanMessage_eq t
    rw [h]
    exact .of_moved .refl evts _
  rw [scanStep_eq]
  exact ((probe_scanned (probeFrame_scanFrame s)).trans (hmessage _)).trans
    (scanMove_scanned (fun a ho => probe_one_whole ho) _)

theorem scanLoop_scanned (fuel : Nat) (s : State) : State.Scanned s (scanLoop fuel s) := by
  induction fuel generalizing s with
  | zero => exact s.lookAtAbort_received.scanned
  | succ n ih =>
    unfold scanLoop
    extract_lets t
    split
    · exact s.lookAtAbort_received.scanned
    · exact (s.lookAtAbort_received.scanned.trans (scanStep_scanned _)).trans (ih _)

/-! ## What each operation writes -/

/-- An address that stands in the state already, or a whole one. -/
def State.Supplies (s : State) (a : SecondaryAddress) : Prop := a ∈ s.addresses ∨ a.whole

theorem saAt_supplies {s : State} {r : SaRef} {a : SecondaryAddress} (h : saAt s r = .ok a) : s.Supplies a := by
  obtain hmem | ⟨n, rfl⟩ := saAt_mem h
  · exact .inl hmem
  · exact .inr (unwrittenAddress_whole n)

/-- The addresses of a VDS that stands in the state. -/
theorem State.supplies_of_vds {s : State} {n : Nat} {v : Vds} (h : s.vdss[n]? = some v) {a : SecondaryAddress}
    (ha : v.llAddr = some a ∨ v.secondaryAddress = some a) : s.Supplies a := by
  refine .inl ?_
  have hmem := List.mem_of_getElem? h
  simp only [State.addresses, List.mem_append, List.mem_flatMap, Option.mem_toList]
  exact .inl (.inr ⟨v, hmem, ha⟩)

theorem State.supplies_of_msg {s : State} {n : Nat} {m : WlMessage} (h : s.msgs[n]? = some m) {a : SecondaryAddress}
    (ha : m.secondaryAddress = some a) : s.Supplies a := by
  refine .inl ?_
  have hmem := List.mem_of_getElem? h
  simp only [State.addresses, List.mem_append, List.mem_flatMap, Option.mem_toList]
  exact .inr ⟨m, hmem, ha⟩

theorem optSaAt_supplies {s : State} {r : Option SaRef} {a : SecondaryAddress} (h : optSaAt s r = .ok (some a)) :
    s.Supplies a := by
  rw [optSaAt_ok] at h
  match r, h with
  | none, h => cases h
  | some (.ofVds n), ⟨v, hv, _, ha⟩ => exact State.supplies_of_vds hv (.inr ha)
  | some (.obj n), ⟨x, hx, ha⟩ => exact Option.some.inj ha ▸ saAt_supplies hx
  | some (.ofMsg n), ⟨x, hx, ha⟩ => exact Option.some.inj ha ▸ saAt_supplies hx
  | some (.found n), ⟨x, hx, ha⟩ => exact Option.some.inj ha ▸ saAt_supplies hx

/-- Both addresses of a VDS are supplied by `s`. -/
def Vds.SuppliedBy (v : Vds) (s : State) : Prop := ∀ a, v.llAddr = some a ∨ v.secondaryAddress = some a → s.Supplies a

/-- A decoded VDS has the link-layer address it was made with, and one of a long header (44_vds.md R281). -/
theorem vdsBody_suppliedBy {p : Params} {m : KeyMap} {v t : Vds} {s : State} (h : vdsBody p m v = .ok t)
    (hll : ∀ a, v.llAddr = some a → s.Supplies a) : t.SuppliedBy s := by
  obtain ⟨-, -, -, -, hsame, -, hwhole⟩ := vdsBody_ok h
  rintro a (ha | ha)
  · exact hll a (hsame ▸ ha)
  · exact .inr (hwhole a ha)

/-- The operations that only answer, or make or decode one object: they transmit nothing and start no scan. -/
def quiet : Instr → Bool
  | .scanInit _ | .rxFrame _ => false
  | i => !transmits i

theorem transmits_of_quiet {i : Instr} (h : quiet i = true) : transmits i = false := by
  unfold quiet at h
  split at h
  · cases h
  · cases h
  · simpa using h

theorem ne_scanInit_of_quiet {i : Instr} (h : quiet i = true) (m : List Char) : i ≠ .scanInit m := by
  rintro rfl
  cases h

theorem ne_scanRun_of_quiet {i : Instr} (h : quiet i = true) (m : List Char) (τ : Nat) : i ≠ .scanRun m τ := by
  rintro rfl
  cases h

/-- The link operations (45_wired_frame.md R360). -/
def linkOperation : Instr → Bool
  | .lnkRead _ _ | .lnkWrite _ _ _ | .lnkReset _ _ | .lnkSelect _ _ | .lnkDeselect _ _ | .lnkSelrd _ _ _ | .lnkRstrd _ _
  | .lnkScansel _ _ => true
  | _ => false

theorem transmits_of_linkOperation {i : Instr} (h : linkOperation i = true) : transmits i = true := by
  cases i with
  | lnkRead | lnkWrite | lnkReset | lnkSelect | lnkDeselect | lnkSelrd | lnkRstrd | lnkScansel => rfl
  | _ => cases h

/-- FCB after the exchange of `i`: only a read and a reset write it, at their address (47_keys_fcb.md R408). -/
def FcbAfter (s : State) (i : Instr) (fcb : BitVec 256) : Prop :=
  fcb = s.fcb ∨
    ∃ a τ, (i = .lnkRead a τ ∨ i = .lnkReset a τ) ∧ ∀ b, b ≠ a → fcbGet fcb b = fcbGet s.fcb b

/-- What every frame of an encoder is (R321, R322): no single-character frame, and of at most 261 bytes, 252 of them data. -/
def EncodedFrame (f : Bytes) : Prop := f.head? ≠ some 0xE5#8 ∧ f.length ≤ 261

theorem encodedFrame_short (c a : Byte) : EncodedFrame (encShortFrame c a) :=
  ⟨by rw [encShortFrame_head]; decide, by simp [encShortFrame]⟩

theorem encLongFrame_length (c a ci : Byte) (data : Bytes) : (encLongFrame c a ci data).length = data.length + 9 := by
  simp [encLongFrame]

theorem encodedFrame_long {c a ci : Byte} {data : Bytes} : EncodedFrame (encLongFrame c a ci data) ↔ data.length ≤ 252 := by
  rw [EncodedFrame, encLongFrame_length, encLongFrame_head]
  refine ⟨fun ⟨_, h⟩ => by omega, fun h => ⟨by decide, by omega⟩⟩

/-- `u` is what operation `i` has written in `s` when it answers: nothing, one table, one object, one exchange on the
transport, or moves of the scanner. -/
inductive Wrote (s : State) : Instr → State → Prop where
  | nothing {i : Instr} (hi : quiet i = true) : Wrote s i s
  | session (kind : SessionKind) (port : Nat) : Wrote s (.sesOpen kind port) (s.openSession kind port)
  | keyAdded {sa : SaRef} {key : Bytes} {a : SecondaryAddress} (hkey : key.length = Config.keyLen) (ha : saAt s sa = .ok a) :
      Wrote s (.keyAdd sa key) (s.setKeymap (KeyMap.add s.keymap a.raw key))
  | keyDeleted {sa : SaRef} (raw : Bytes) : Wrote s (.keyDel sa) (s.setKeymap (KeyMap.del s.keymap raw))
  | bcdMade {i : Instr} (hi : quiet i = true) (x : Bcd) : Wrote s i (s.addBcd x)
  | recMade {i : Instr} (hi : quiet i = true) (r : DataRecord) : Wrote s i (s.addRec r)
  | addrMade {i : Instr} (hi : quiet i = true) {a : SecondaryAddress} (ha : a.whole) : Wrote s i (s.addAddr a)
  | vdsMade {i : Instr} (hi : quiet i = true) {v : Vds} (hv : v.SuppliedBy s) : Wrote s i (s.addVds v)
  | vdsDecoded {n : Nat} {v w : Vds} (hv : s.vdss[n]? = some v) (hraw : v.phase = .raw) (hw : w.SuppliedBy s) :
      Wrote s (.vdsDec n) (s.setVds n w)
  | msgMade {buf rssi : Bytes} (e : Event) : Wrote s (.wlNew buf rssi) ((s.addMsg (WlMessage.new buf rssi)).emit e)
  | msgRead {i : Instr} (hi : quiet i = true) {n : Nat} {m m' : WlMessage} (hm : s.msgs[n]? = some m)
      (hbuf : m'.buf = m.buf ∧ m'.rssi = m.rssi) (ha : ∀ a, m'.secondaryAddress = some a → s.Supplies a) :
      Wrote s i (s.setMsg n m')
  | deepRead {n : Nat} {m m' : WlMessage} {v : Vds} (hm : s.msgs[n]? = some m)
      (hbuf : m'.buf = m.buf ∧ m'.rssi = m.rssi) (ha : ∀ a, m'.secondaryAddress = some a → s.Supplies a)
      (hv : v.SuppliedBy s) : Wrote s (.wlDeep n) ((s.addVds v).setMsg n m')
  | sent {f : Bytes} (hf : f.head? ≠ some 0xE5#8) : Wrote s (.txFrame f) (s.transmit f)
  | received {τ : Nat} {u : State} (hu : State.Received s u) : Wrote s (.rxFrame τ) u
  | exchanged {i : Instr} {f : Bytes} {fcb : BitVec 256} {u : State} (hi : linkOperation i = true)
      (hf : rowFrame s f i) (hframe : EncodedFrame f) (hfcb : FcbAfter s i fcb) (hu : State.Exchanged s f fcb u) : Wrote s i u
  | readVds {a : Byte} {τ : Nat} {f : Bytes} {fcb : BitVec 256} {u : State} {v : Vds} (hf : rowFrame s f (.lnkRead a τ))
      (hframe : EncodedFrame f) (hfcb : FcbAfter s (.lnkRead a τ) fcb) (hu : State.Exchanged s f fcb u)
      (hv : v.SuppliedBy s) : Wrote s (.lnkRead a τ) (u.addVds v)
  | initialized {m : List Char} {sc : Scanner} (hsc : scanInitOp s.params.scanInitZero m = .ok sc) :
      Wrote s (.scanInit m) (s.setScanner sc)
  | moved {i : Instr} (hi : quiet i = true) {sc : Scanner} (hsc : s.scanner.Moved sc) : Wrote s i (s.setScanner sc)
  | stepped {τ : Nat} {u : State} (hu : State.Scanned s u) : Wrote s (.scanStep τ) u
  | ran {m : List Char} {τ : Nat} {sc : Scanner} {u : State} (hsc : scanInitOp s.params.scanInitZero m = .ok sc)
      (hlink : s.link = .idle) (hu : State.Scanned (s.setScanner sc) u) : Wrote s (.scanRun m τ) u

/-- `o` is refused, faults, or answers with a result or a failure of `i`'s row of the table (R470), in a state that `i` has
written as `Wrote` says. -/
def EndsAs (s : State) (i : Instr) (o : Out) : Prop :=
  ∀ t, o = .next t → ∃ u, Wrote s i u ∧ ((∃ v, t = u.respond v) ∨ ∃ c ∈ causesOf i, t = u.raise c)

section
variable {s u : State} {i : Instr} {α : Type}

theorem EndsAs.respond (h : Wrote s i u) (v : Value) : EndsAs s i (.next (u.respond v)) := by
  rintro t ⟨⟩
  exact ⟨u, h, .inl ⟨v, rfl⟩⟩

theorem EndsAs.raise {c : Cause} (h : Wrote s i u) (hc : c ∈ causesOf i) : EndsAs s i (.next (u.raise c)) := by
  rintro t ⟨⟩
  exact ⟨u, h, .inr ⟨c, hc, rfl⟩⟩

theorem EndsAs.refused (x : Refusal) : EndsAs s i (.refused x) := fun _ h => nomatch h
theorem EndsAs.fault (x : Fault) : EndsAs s i (.fault x) := fun _ h => nomatch h

/-- A part, and what follows it; a part that raises nothing. -/
theorem EndsAs.proceed_silent {r : Run α} {k : α → Out} (hr : Run.RaisesIn [] r) (hk : ∀ a, r = .ok a → EndsAs s i (k a)) :
    EndsAs s i (proceed r k s) := by
  intro t ht
  obtain ⟨a, ha, hnext⟩ | ⟨c, hc, -⟩ := proceed_next.mp ht
  · exact hk a ha t hnext
  · cases hr c hc

theorem EndsAs.finish_silent {r : Run α} {g : α → State} {v : α → Value} (hr : Run.RaisesIn [] r)
    (hk : ∀ a, r = .ok a → Wrote s i (g a)) : EndsAs s i (finish r (fun a => (g a).respond (v a)) s) :=
  .proceed_silent hr fun a ha => .respond (hk a ha) (v a)

/-- A part that raises before anything is written. -/
theorem EndsAs.finish {r : Run α} {g : α → State} {v : α → Value} (hi : quiet i = true) (hr : Run.RaisesIn (causesOf i) r)
    (hk : ∀ a, r = .ok a → Wrote s i (g a)) : EndsAs s i (finish r (fun a => (g a).respond (v a)) s) := by
  intro t ht
  obtain ⟨a, ha, rfl⟩ | ⟨c, hc, rfl⟩ := finish_next.mp ht
  · exact ⟨g a, hk a ha, .inl ⟨v a, rfl⟩⟩
  · exact ⟨s, .nothing hi, .inr ⟨c, hr c hc, rfl⟩⟩

theorem EndsAs.conclude {r : Run Value} (hi : quiet i = true) (hr : Run.RaisesIn (causesOf i) r) : EndsAs s i (conclude r s) :=
  .finish (g := fun _ => s) (v := id) hi hr fun _ _ => .nothing hi

/-- A link operation that waits for the acknowledgement (R351 to R356): it sends its frame, and may set its bit of FCB on the
acknowledgement. -/
theorem EndsAs.ackOp {frame : Run Bytes} {onAck : State → State} {fcb : State → BitVec 256} (hi : linkOperation i = true)
    (hcauses : receiveCauses ++ [.unexpectedResponse] ⊆ causesOf i)
    (hframe : Run.RaisesIn [] frame) (hrow : ∀ f, frame = .ok f → rowFrame s f i ∧ EncodedFrame f)
    (hack : ∀ t, onAck t = t.setFcb (fcb t)) (hfcb : ∀ t : State, t.fcb = s.fcb → FcbAfter s i (fcb t)) :
    EndsAs s i (ackOp frame onAck s) := by
  refine .proceed_silent ((needLink_raisesIn s).bind fun _ => hframe) fun f hf => ?_
  obtain ⟨-, -, hf⟩ := Run.bind_ok.mp hf
  obtain ⟨hrowf, hencoded⟩ := hrow f hf
  have hreceived := exchange_received f id s
  have hfails := exchange_failsIn f id s
  unfold ackExchange
  match exchange f id s, hreceived, hfails with
  | (.ok .singleCharacter, t), hreceived, _ =>
    have hothers : t = _ := hreceived.others
    refine .respond (.exchanged hi hrowf hencoded (hfcb t ?same) ?acknowledged) _
    case same => rw [hothers]; rfl
    case acknowledged =>
      rw [hack]
      refine ⟨hreceived.taken, hreceived.scanner, ?_⟩
      rw [hothers]
      rfl
  | (.ok (.long _), t), hreceived, _ =>
    exact .raise (.exchanged hi hrowf hencoded (.inl rfl) (State.Received.exchanged (fcb := s.fcb) hreceived))
      (hcauses (by simp))
  | (.error c, t), hreceived, hfails =>
    exact .raise (.exchanged hi hrowf hencoded (.inl rfl) (State.Received.exchanged (fcb := s.fcb) hreceived))
      (hcauses (List.mem_append_left _ (hfails c rfl)))

end

end Sys2Proof.Machine

/-! Every operation ends as `EndsAs` says: its row of the table of failures, and what it has written. -/

namespace Sys2Proof.Machine

section
variable {s : State}

/-! ## Decoders that write the object they decode -/

theorem execVdsDec_endsAs (n : Nat) (s : State) : EndsAs s (.vdsDec n) (execVdsDec n s) := by
  refine .proceed_silent (objAt_raisesIn _ _) fun v hv => ?_
  have hv := objAt_ok.mp hv
  split
  · exact .refused _
  · next hraw =>
    have hraw := not_not.mp hraw
    split
    · next hbody =>
      exact .respond (.vdsDecoded hv hraw (vdsBody_suppliedBy hbody fun a ha => State.supplies_of_vds hv (.inl ha))) _
    · next hbody =>
      exact .raise (.vdsDecoded hv hraw fun a ha => State.supplies_of_vds hv ha) (vdsBody_failsIn _ _ _ _ hbody)

/-- A message whose header was read, or not, is over the same buffer; its address is whole, or the one it had. -/
theorem wlDecode_cases (m : WlMessage) :
    (∃ m', wlDecode m = (.ok (), m') ∧ (m'.buf = m.buf ∧ m'.rssi = m.rssi) ∧ ∀ a, m'.secondaryAddress = some a → a.whole) ∨
    ∃ c, c ∈ headerCauses ∧ wlDecode m = (.error c, m.fail) := by
  unfold wlDecode
  split
  · next h hencodeder =>
    refine .inl ⟨_, rfl, ⟨rfl, rfl⟩, ?_⟩
    rintro _ ⟨⟩
    obtain ⟨⟨length, w⟩, -, hencodeder⟩ := Dec.bind_ok.mp hencodeder
    dsimp only at hencodeder
    split at hencodeder
    · cases hencodeder
    · split at hencodeder
      · cases hencodeder
      · obtain ⟨⟨control, w'⟩, -, hencodeder⟩ := Dec.bind_ok.mp hencodeder
        obtain ⟨⟨a, w''⟩, ha, hencodeder⟩ := Dec.bind_ok.mp hencodeder
        cases hencodeder
        exact (readSaLl_ok ha).2
  · next c hencodeder => exact .inr ⟨c, wlHeader_failsIn _ _ hencodeder, rfl⟩

theorem execWlDec_endsAs (n : Nat) (s : State) : EndsAs s (.wlDec n) (execWlDec n s) := by
  refine .proceed_silent (objAt_raisesIn _ _) fun m hm => ?_
  have hm := objAt_ok.mp hm
  split
  · exact .refused _
  · obtain ⟨m', h, hbuf, ha⟩ | ⟨c, hc, h⟩ := wlDecode_cases m
    · rw [h]
      exact .respond (.msgRead rfl hm hbuf fun a h => .inr (ha a h)) _
    · rw [h]
      exact .raise (.msgRead rfl hm ⟨rfl, rfl⟩ fun a ha => State.supplies_of_msg hm ha) hc

theorem deepDecode_endsAs {n : Nat} {m m' : WlMessage} (hm : s.msgs[n]? = some m)
    (hbuf : m'.buf = m.buf ∧ m'.rssi = m.rssi) (ha : ∀ a, m'.secondaryAddress = some a → s.Supplies a) :
    EndsAs s (.wlDeep n) (deepDecode n m' s) := by
  unfold deepDecode
  extract_lets w
  split
  · next hbody => exact .respond (.deepRead (m' := { w with phase := .deep }) hm hbuf ha (vdsBody_suppliedBy hbody ha)) _
  · next hbody =>
    refine .raise (.deepRead hm hbuf ha ?_) (List.mem_append_right _ (vdsBody_failsIn _ _ _ _ hbody))
    rintro a (h | h)
    · exact ha a h
    · cases h

theorem execWlDeep_endsAs (n : Nat) (s : State) : EndsAs s (.wlDeep n) (execWlDeep n s) := by
  refine .proceed_silent (objAt_raisesIn _ _) fun m hm => ?_
  have hm := objAt_ok.mp hm
  have hold (a : SecondaryAddress) (ha : m.secondaryAddress = some a) : s.Supplies a := State.supplies_of_msg hm ha
  split
  · exact .refused _
  · split
    · exact deepDecode_endsAs hm ⟨rfl, rfl⟩ hold
    · obtain ⟨m', h, hbuf, ha⟩ | ⟨c, hc, h⟩ := wlDecode_cases m
      · rw [h]
        exact deepDecode_endsAs hm hbuf fun a h => .inr (ha a h)
      · rw [h]
        exact .raise (.msgRead rfl hm ⟨rfl, rfl⟩ hold) (List.mem_append_left _ hc)

/-! ## The transport -/

theorem execTxFrame_endsAs (f : Bytes) (s : State) : EndsAs s (.txFrame f) (execTxFrame f s) := by
  refine .finish_silent (g := fun _ => s.transmit f) (v := fun _ => .none)
    ((needLink_raisesIn s).bind fun _ => needSendable_raisesIn f) fun _ h => ?_
  obtain ⟨-, -, hsendable⟩ := Run.bind_ok.mp h
  exact .sent (needSendable_ok.mp hsendable)

theorem execRxFrame_endsAs (τ : Nat) (s : State) : EndsAs s (.rxFrame τ) (execRxFrame τ s) := by
  refine .proceed_silent (needLink_raisesIn s) fun _ _ => ?_
  have hreceived := rxFrame_received s
  have hfails := rxFrame_failsIn s
  match rxFrame s, hreceived, hfails with
  | (.ok fr, t), hreceived, _ => exact .respond (.received hreceived) _
  | (.error c, t), hreceived, hfails => exact .raise (.received hreceived) (hfails c rfl)

/-- The request of LNK.READ is the REQ_UD2 frame of its row (R350, R360). -/
theorem rowFrame_lnkRead (s : State) (a : Byte) (τ : Nat) :
    rowFrame s (encShortFrame (reqUd2Control (fcbGet s.fcb a)) a) (.lnkRead a τ) := by
  show _ = shortFrame (if _ then _ else _) a
  rw [encShortFrame_eq_shortFrame, reqUd2Control_eq]

theorem execLnkRead_endsAs (a : Byte) (τ : Nat) (s : State) : EndsAs s (.lnkRead a τ) (execLnkRead a τ s) := by
  refine .proceed_silent (needLink_raisesIn s) fun _ _ => ?_
  have hsent := readExchange_exchanged a s
  have hfails := readExchange_failsIn a s
  have hmade (v : Vds) (h : (readExchange a s).1 = .ok v) : v.SuppliedBy s := by
    obtain ⟨hll, hwhole⟩ := readExchange_ok h
    rintro x (hx | hx)
    · cases hll.symm.trans hx
    · exact .inr (hwhole x hx)
  have hfcb : FcbAfter s (.lnkRead a τ) (fcbToggle s.fcb a) :=
    .inr ⟨a, τ, .inl rfl, fun b hb => fcbGet_fcbToggle_of_ne hb s.fcb⟩
  match readExchange a s, hsent, hfails, hmade with
  | (.ok v, t), hsent, _, hmade =>
    exact .respond (.readVds (rowFrame_lnkRead s a τ) (encodedFrame_short _ _) hfcb hsent (hmade v rfl)) _
  | (.error c, t), hsent, hfails, _ =>
    exact .raise (.exchanged rfl (rowFrame_lnkRead s a τ) (encodedFrame_short _ _) hfcb hsent) (hfails c rfl)

theorem encLongOp_ok {c a ci : Byte} {data f : Bytes} (h : encLongOp c a ci data = .ok f) :
    f = encLongFrame c a ci data ∧ data.length ≤ 252 := by
  unfold encLongOp at h
  split at h
  · cases h
  · next hlen => exact ⟨(Except.ok.inj h).symm, Nat.le_of_not_lt hlen⟩

theorem encLongOp_encodedFrame {c a ci : Byte} {data f : Bytes} (h : encLongOp c a ci data = .ok f) : EncodedFrame f := by
  obtain ⟨rfl, hlen⟩ := encLongOp_ok h
  exact encodedFrame_long.mpr hlen

theorem execLnkScansel_endsAs (wild : Bytes) (τ : Nat) (s : State) :
    EndsAs s (.lnkScansel wild τ) (execLnkScansel wild τ s) := by
  refine .proceed_silent ((needLink_raisesIn s).bind fun _ => encLongOp_raisesIn _ _ _ _) fun f hf => ?_
  obtain ⟨-, -, hf⟩ := Run.bind_ok.mp hf
  have hrow : rowFrame s f (.lnkScansel wild τ) := (encLongOp_ok hf).1
  exact .respond (.exchanged rfl hrow (encLongOp_encodedFrame hf) (.inl rfl)
    (scanselExchange_exchanged f s)) _

/-- An acknowledged operation that writes no bit of FCB. -/
theorem EndsAs.ackOp_id {i : Instr} {frame : Run Bytes} (hi : linkOperation i = true)
    (hcauses : receiveCauses ++ [.unexpectedResponse] ⊆ causesOf i) (hframe : Run.RaisesIn [] frame)
    (hrow : ∀ f, frame = .ok f → rowFrame s f i ∧ EncodedFrame f) : EndsAs s i (Machine.ackOp frame id s) :=
  .ackOp (fcb := State.fcb) hi hcauses hframe hrow (fun _ => rfl) fun _ h => .inl h

/-- Setting a bit of FCB leaves the others (R352): it is the bit a toggle moves. -/
theorem fcbGet_fcbSet_of_ne {a b : Byte} (h : b ≠ a) (f : BitVec 256) : fcbGet (fcbSet f a) b = fcbGet f b := by
  have hbit : (1#256 <<< a.toNat).getLsbD b.toNat = false := by
    simpa [fcbGet, fcbToggle] using fcbGet_fcbToggle_of_ne h 0#256
  rw [fcbGet, fcbGet, fcbSet, BitVec.getLsbD_or, hbit, Bool.or_false]

theorem execLnkReset_endsAs (a : Byte) (τ : Nat) (s : State) : EndsAs s (.lnkReset a τ) (execLnkReset a τ s) := by
  refine .ackOp (fcb := fun t => fcbSet t.fcb a) rfl (List.Subset.refl _) (Run.raisesIn_ok _) ?_
    (fun _ => rfl) fun t ht => .inr ⟨a, τ, .inr rfl, fun b hb => ?_⟩
  · rintro _ ⟨⟩
    exact ⟨encShortFrame_eq_shortFrame _ _, encodedFrame_short _ _⟩
  · rw [ht]
    exact fcbGet_fcbSet_of_ne hb s.fcb

/-- A frame to a long form of its row. -/
theorem longFrame_row {i : Instr} {c a ci : Byte} {data : Bytes} (hrow : rowFrame s (encLongFrame c a ci data) i) :
    ∀ f, encLongOp c a ci data = .ok f → rowFrame s f i ∧ EncodedFrame f :=
  fun _ hf => ⟨(encLongOp_ok hf).1 ▸ hrow, encLongOp_encodedFrame hf⟩

/-- A select or deselect frame carries the raw bytes of its operand. -/
theorem selectFrame_row {i : Instr} {sa : SaRef} {ci : Byte}
    (hrow : ∀ x, saAt s sa = .ok x → rowFrame s (encLongFrame s.params.cSndUdSel 0xFD#8 ci x.raw) i) :
    ∀ f, (do let a ← saAt s sa; selectFrame s.params ci a.raw) = Except.ok f → rowFrame s f i ∧ EncodedFrame f := by
  intro f hf
  obtain ⟨x, hx, hf⟩ := Run.bind_ok.mp hf
  exact longFrame_row (hrow x hx) f hf

theorem selectFrame_raisesIn (sa : SaRef) (ci : Byte) (s : State) :
    Run.RaisesIn [] (do let a ← saAt s sa; selectFrame s.params ci a.raw) :=
  (saAt_raisesIn s sa).bind fun _ => encLongOp_raisesIn _ _ _ _

/-! ## The scanner -/

theorem execScanInit_endsAs (m : List Char) (s : State) : EndsAs s (.scanInit m) (execScanInit m s) := by
  refine .finish_silent (g := fun sc => s.setScanner sc) (v := fun sc => .scanner sc.pos sc.value)
    ((needScanner_raisesIn s).bind fun _ => scanInitOp_raisesIn _ m) fun sc h => ?_
  obtain ⟨-, -, hsc⟩ := Run.bind_ok.mp h
  exact .initialized hsc

theorem execScanStep_endsAs (τ : Nat) (s : State) : EndsAs s (.scanStep τ) (execScanStep τ s) :=
  .finish_silent (g := fun _ => scanStep s) (v := fun _ => .scanner (scanStep s).scanner.pos (scanStep s).scanner.value)
    (needLink_raisesIn s) fun _ _ => .stepped (scanStep_scanned s)

theorem execScanAdv_endsAs (s : State) : EndsAs s .scanAdv (execScanAdv s) :=
  .finish_silent (g := fun _ => s.setScanner s.scanner.adv) (v := fun _ => .scanner s.scanner.adv.pos s.scanner.adv.value)
    (needScanner_raisesIn s) fun _ _ => .moved rfl (.adv .refl)

theorem execScanNarrow_endsAs (s : State) : EndsAs s .scanNarrow (execScanNarrow s) := by
  refine .finish_silent (g := fun sc => s.setScanner sc) (v := fun sc => .scanner sc.pos sc.value) (scanNarrowOp_raisesIn s)
    fun sc h => ?_
  obtain ⟨-, -, hsc⟩ := Run.bind_ok.mp h
  split at hsc
  · next hpos =>
    cases hsc
    exact .moved rfl (.narrow .refl hpos)
  · cases hsc

theorem execScanRun_endsAs (m : List Char) (τ : Nat) (s : State) : EndsAs s (.scanRun m τ) (execScanRun m τ s) := by
  refine .finish_silent
    (g := fun sc => (scanLoop scanBound (s.setScanner sc)).setScanner
      { (scanLoop scanBound (s.setScanner sc)).scanner with running := false })
    (v := fun sc => .found (scanLoop scanBound (s.setScanner sc)).scanner.found)
    ((needTransport_raisesIn s).bind fun _ => (scanInitOp_raisesIn _ m).bind fun _ =>
      (needLink_raisesIn s).bind fun _ => Run.raisesIn_ok _) fun sc h => ?_
  obtain ⟨-, -, h⟩ := Run.bind_ok.mp h
  obtain ⟨sc', hsc, h⟩ := Run.bind_ok.mp h
  obtain ⟨_, hlink, h⟩ := Run.bind_ok.mp h
  cases h
  obtain ⟨-, hidle⟩ := needLink_ok.mp hlink
  have hscanned := scanLoop_scanned scanBound (s.setScanner sc)
  generalize scanLoop scanBound (s.setScanner sc) = t at hscanned
  exact .ran hsc hidle (hscanned.trans (.of_moved (.ended .refl) t.evts t.free))

/-! ## Every operation -/

/-- Every operation ends as its row says. -/
theorem exec_endsAs (i : Instr) (s : State) : EndsAs s i (exec i s) := by
  have hsa (a : SaRef) : Run.RaisesIn [] (saAt s a) := saAt_raisesIn s a
  cases i with
  | sesOpen kind port => exact .respond (.session kind port) _
  | manDec | encShort | chkSum | chkVerify | scanPack | fAck | fMan | special | fIv | fWild | cField | rspUdTest | reqUd2
  | aField | ciField => exact .respond (.nothing rfl) _
  | scanAbort => exact .respond (.moved rfl (.abort .refl)) _
  | fcbGet a =>
    show EndsAs s _ (if _ then _ else _)
    split
    · exact .respond (.nothing rfl) _
    · exact .fault _
  | wlNew buf rssi =>
    show EndsAs s _ (if _ then _ else _)
    split
    · exact .respond (.msgMade _) _
    · exact .fault _
  | bcdStr x => exact .conclude rfl ((bcdAt_raisesIn s x).bind fun _ => Run.raisesIn_ok _)
  | bcdInt x =>
    exact .conclude rfl ((bcdAt_raisesIn s x).bind fun x => (bcdInt_raisesIn x).bind fun _ => Run.raisesIn_ok _)
  | bcdLong x =>
    exact .conclude rfl ((bcdAt_raisesIn s x).bind fun x => (bcdLong_raisesIn x).bind fun _ => Run.raisesIn_ok _)
  | bcdEnc v n => exact .conclude rfl ((bcdEncode_raisesIn v n).bind fun _ => Run.raisesIn_ok _)
  | manEnc str => exact .conclude rfl ((manEncode_raisesIn str).bind fun _ => Run.raisesIn_ok _)
  | saRaw x => exact .conclude rfl ((saAt_raisesIn s x).bind fun _ => Run.raisesIn_ok _)
  | saEq x y | saCmp x y =>
    exact .conclude rfl ((saAt_raisesIn s x).bind fun _ => (saAt_raisesIn s y).bind fun _ => Run.raisesIn_ok _)
  | drScale x =>
    exact .conclude rfl ((recAt_raisesIn s x).bind fun r => (scaledValue_raisesIn r).bind fun _ => Run.raisesIn_ok _)
  | aesDecrypt key iv buf p avail n =>
    exact .conclude rfl ((aesDecryptOp_raisesIn key iv buf p avail n).bind fun _ => Run.raisesIn_ok _)
  | aesEncrypt key iv m => exact .conclude rfl ((aesEncryptOp_raisesIn key iv m).bind fun _ => Run.raisesIn_ok _)
  | encLong c a ci data => exact .conclude rfl ((encLongOp_raisesIn c a ci data).bind fun _ => Run.raisesIn_ok _)
  | decFrame buf => exact .conclude rfl ((decFrameOf_failsIn _ buf).run.bind fun _ => Run.raisesIn_ok _)
  | decShort buf | fShort buf => exact .conclude rfl ((decShortOf_failsIn buf).run.bind fun _ => Run.raisesIn_ok _)
  | maskFlip m => exact .conclude rfl ((maskFlipOp_raisesIn m).bind fun _ => Run.raisesIn_ok _)
  | fLong buf => exact .conclude rfl ((readLongFormat_failsIn _ buf).run.bind fun _ => Run.raisesIn_ok _)
  | fWl buf =>
    exact .conclude rfl (((wlHeader_failsIn buf).bind fun _ => Dec.failsIn_ok _).run.bind fun _ => Run.raisesIn_ok _)
  | fSaLh buf =>
    exact .conclude rfl (((readSaLh_failsIn buf).bind fun _ => Dec.failsIn_ok _).run.bind fun _ => Run.raisesIn_ok _)
  | fSaLl buf =>
    exact .conclude rfl (((readSaLl_failsIn buf).bind fun _ => Dec.failsIn_ok _).run.bind fun _ => Run.raisesIn_ok _)
  | fSh buf =>
    exact .conclude rfl (((readShortHeader_failsIn buf).bind fun _ => Dec.failsIn_ok _).run.bind fun _ => Run.raisesIn_ok _)
  | fLh buf =>
    exact .conclude rfl (((readLongHeader_failsIn buf).bind fun _ => Dec.failsIn_ok _).run.bind fun _ => Run.raisesIn_ok _)
  | fDib buf => exact .conclude rfl (((chain_failsIn buf).bind fun _ => Dec.failsIn_ok _).run.bind fun _ => Run.raisesIn_ok _)
  | fVib buf => exact .conclude rfl ((readVib_failsIn s.params buf).run.bind fun _ => Run.raisesIn_ok _)
  | fData code hint buf =>
    exact .conclude rfl ((readField_failsIn (readData_failsIn code.toNat hint buf)).run.bind fun _ => Run.raisesIn_ok _)
  | lvar buf => exact .conclude rfl ((readField_failsIn (readString_failsIn buf)).run.bind fun _ => Run.raisesIn_ok _)
  | fBcd b => exact .conclude rfl ((bcdDecodeOp_raisesIn b).bind fun _ => Run.raisesIn_ok _)
  | leadByte b => exact .conclude rfl ((leadByteOf_failsIn b).run.bind fun _ => Run.raisesIn_ok _)
  | keyAdd sa key =>
    refine .finish_silent (g := fun raw => s.setKeymap (KeyMap.add s.keymap raw key)) (v := fun _ => .none)
      (keyAddAt_raisesIn sa key s) fun raw h => ?_
    unfold keyAddAt at h
    split at h
    · cases h
    · next hkey =>
      obtain ⟨a, ha, h⟩ := Run.bind_ok.mp h
      cases h
      exact .keyAdded (not_not.mp hkey) ha
  | keyDel sa =>
    exact .finish_silent (g := fun a => s.setKeymap (KeyMap.del s.keymap a.raw)) (v := fun _ => .none) (hsa sa)
      fun a _ => .keyDeleted a.raw
  | keyGet k =>
    exact .finish_silent (g := fun _ => s) (v := fun raw => .key (KeyMap.get s.keymap raw)) (rawAt_raisesIn s k)
      fun _ _ => .nothing rfl
  | bcdDec b =>
    exact .finish (g := fun x => s.addBcd x) (v := fun _ => .bcd s.bcds.length) rfl (bcdDecodeOp_raisesIn b)
      fun x _ => .bcdMade rfl x
  | saLh buf p =>
    refine .finish (g := fun a => s.addAddr a) (v := fun _ => .address s.addrs.length) rfl
      ((readSaLh_failsIn (buf.drop p)).bind fun _ => Dec.failsIn_ok _).run fun a h => ?_
    obtain ⟨⟨x, w⟩, hx, ha⟩ := Dec.bind_ok.mp (Run.ofDec_ok.mp h)
    cases ha
    exact .addrMade rfl (readSaLh_ok hx).2
  | saLl buf p =>
    refine .finish (g := fun a => s.addAddr a) (v := fun _ => .address s.addrs.length) rfl
      ((readSaLl_failsIn (buf.drop p)).bind fun _ => Dec.failsIn_ok _).run fun a h => ?_
    obtain ⟨⟨x, w⟩, hx, ha⟩ := Dec.bind_ok.mp (Run.ofDec_ok.mp h)
    cases ha
    exact .addrMade rfl (readSaLl_ok hx).2
  | saBuild man v ver typ order =>
    refine .finish_silent (g := fun a => s.addAddr a) (v := fun _ => .address s.addrs.length)
      (saBuildOp_raisesIn man v ver typ order) fun a h => ?_
    obtain ⟨x, hx, hwhole⟩ | ⟨x, hx⟩ := saBuildOp_cases man v ver typ order <;> cases hx.symm.trans h
    exact .addrMade rfl hwhole
  | drDec buf p remaining =>
    exact .finish (i := .drDec buf p remaining) (g := fun x : DataRecord × Nat => s.addRec x.1)
      (v := fun x => .record s.recs.length x.2) rfl (recordAt_failsIn s.params buf p remaining).run
      fun x _ => .recMade rfl x.1
  | vdsNew buf off len ll keys =>
    refine .finish_silent (g := fun a => s.addVds (Vds.new buf off len a keys)) (v := fun _ => .vds s.vdss.length)
      (optSaAt_raisesIn s ll) fun a h => .vdsMade rfl ?_
    rintro x (hx | hx)
    · have hx : a = some x := hx
      subst hx
      exact optSaAt_supplies h
    · cases hx
  | vdsDec n => exact execVdsDec_endsAs n s
  | wlDec n => exact execWlDec_endsAs n s
  | wlDeep n => exact execWlDeep_endsAs n s
  | txFrame f => exact execTxFrame_endsAs f s
  | rxFrame τ => exact execRxFrame_endsAs τ s
  | lnkRead a τ => exact execLnkRead_endsAs a τ s
  | lnkWrite a payload τ =>
    exact .ackOp_id rfl (List.Subset.refl _) (encLongOp_raisesIn _ _ _ _) (longFrame_row rfl)
  | lnkReset a τ => exact execLnkReset_endsAs a τ s
  | lnkSelect sa τ | lnkDeselect sa τ =>
    exact .ackOp_id rfl (List.Subset.refl _) (selectFrame_raisesIn sa _ s)
      (selectFrame_row fun x hx => ⟨x, hx, rfl⟩)
  | lnkSelrd a payload τ =>
    exact .ackOp_id rfl (List.Subset.refl _) (encLongOp_raisesIn _ _ _ _) (longFrame_row rfl)
  | lnkRstrd a τ =>
    exact .ackOp_id rfl (List.Subset.refl _) (encLongOp_raisesIn _ _ _ _) (longFrame_row rfl)
  | lnkScansel wild τ => exact execLnkScansel_endsAs wild τ s
  | scanInit m => exact execScanInit_endsAs m s
  | scanStep τ => exact execScanStep_endsAs τ s
  | scanAdv => exact execScanAdv_endsAs s
  | scanNarrow => exact execScanNarrow_endsAs s
  | scanRun m τ => exact execScanRun_endsAs m τ s

end

/-- What an operation that gives a next state has written, and that it then answers with a result or a failure of its row. -/
theorem exec_wrote {i : Instr} {s t : State} (h : exec i s = .next t) :
    ∃ u, Wrote s i u ∧ ((∃ v, t = u.respond v) ∨ ∃ c ∈ causesOf i, t = u.raise c) :=
  exec_endsAs i s t h

/-- Settles O11: what an operation raises is a cause of its row. -/
theorem operationsFailOnlyAsTheTableSays : Obligations.OperationsFailOnlyAsTheTableSays := by
  intro i s t c hexec hc
  obtain ⟨u, -, ⟨v, rfl⟩ | ⟨c', hc', rfl⟩⟩ := exec_wrote hexec
  · cases hc
  · cases hc
    exact hc'

end Sys2Proof.Machine

/-! The safety statements and the invariants of every step, read off what operations write. -/

namespace Sys2Proof.Machine

/-! ## Tables -/

section
variable {s u : State} {i : Instr}

/-- FCB after an operation (47_keys_fcb.md R408): as it was, but for the address of a read or a reset, `0xFD` in a scan, or
all of it in SES.OPEN. -/
theorem Wrote.fcb_cases (h : Wrote s i u) :
    FcbAfter s i u.fcb ∨
    (∃ m τ, (i = .scanStep τ ∨ i = .scanRun m τ) ∧ ∀ b, b ≠ 0xFD#8 → fcbGet u.fcb b = fcbGet s.fcb b) ∨
    ∃ kind port, i = .sesOpen kind port := by
  cases h with
  | session kind port => exact .inr (.inr ⟨kind, port, rfl⟩)
  | nothing | keyAdded | keyDeleted | bcdMade | recMade | addrMade | vdsMade | vdsDecoded | msgRead | deepRead | sent
  | initialized | moved => exact .inl (.inl rfl)
  | msgMade => exact .inl (.inl (State.emit_fcb _ _))
  | received hu => exact .inl (.inl (by rw [hu.others]))
  | exchanged _ _ _ hfcb hu => rw [hu.others]; exact .inl hfcb
  | readVds _ _ hfcb hu => rw [hu.others]; exact .inl hfcb
  | stepped hu => exact .inr (.inl ⟨[], _, .inl rfl, hu.fcb⟩)
  | ran _ _ hu => exact .inr (.inl ⟨_, _, .inr rfl, hu.fcb⟩)

/-- KEYMAP after an operation (R402, R403, R408): as it was, empty, or with one entry added or removed. -/
theorem Wrote.keymap_cases (h : Wrote s i u) :
    u.keymap = s.keymap ∨ writesKeymap i = true ∧
      (u.keymap = [] ∨
        (∃ key a, key.length = Config.keyLen ∧ s.Supplies a ∧ u.keymap = KeyMap.add s.keymap a.raw key) ∨
        ∃ raw, u.keymap = KeyMap.del s.keymap raw) := by
  cases h with
  | session => exact .inr ⟨rfl, .inl rfl⟩
  | keyAdded hkey ha => exact .inr ⟨rfl, .inr (.inl ⟨_, _, hkey, saAt_supplies ha, rfl⟩)⟩
  | keyDeleted raw => exact .inr ⟨rfl, .inr (.inr ⟨raw, rfl⟩)⟩
  | nothing | bcdMade | recMade | addrMade | vdsMade | vdsDecoded | msgRead | deepRead | sent | initialized | moved =>
    exact .inl rfl
  | msgMade => exact .inl (State.emit_keymap _ _)
  | received hu => exact .inl (by rw [hu.others])
  | exchanged _ _ _ _ hu => exact .inl (by rw [hu.others])
  | readVds _ _ _ hu => exact .inl (by rw [hu.others]; rfl)
  | stepped hu => exact .inl (by rw [hu.others])
  | ran _ _ hu => exact .inl (by rw [hu.others]; rfl)

/-- What no operation changes but SES.OPEN, which changes the session's kind and port (70_reset_and_hazards.md R520). -/
theorem Wrote.session_kept (h : Wrote s i u) :
    u.params = s.params ∧ u.listener = s.listener ∧ u.inp = s.inp ∧
    ((∀ kind port, i ≠ .sesOpen kind port) → u.kind = s.kind ∧ u.port = s.port) := by
  cases h with
  | session kind port => exact ⟨rfl, rfl, rfl, fun hi => absurd rfl (hi kind port)⟩
  | nothing | keyAdded | keyDeleted | bcdMade | recMade | addrMade | vdsMade | vdsDecoded | msgRead | deepRead | sent
  | initialized | moved => exact ⟨rfl, rfl, rfl, fun _ => ⟨rfl, rfl⟩⟩
  | msgMade => rw [State.emit_eq]; exact ⟨rfl, rfl, rfl, fun _ => ⟨rfl, rfl⟩⟩
  | received hu => rw [hu.others]; exact ⟨rfl, rfl, rfl, fun _ => ⟨rfl, rfl⟩⟩
  | exchanged _ _ _ _ hu => rw [hu.others]; exact ⟨rfl, rfl, rfl, fun _ => ⟨rfl, rfl⟩⟩
  | readVds _ _ _ hu => rw [hu.others]; exact ⟨rfl, rfl, rfl, fun _ => ⟨rfl, rfl⟩⟩
  | stepped hu => rw [hu.others]; exact ⟨rfl, rfl, rfl, fun _ => ⟨rfl, rfl⟩⟩
  | ran _ _ hu => rw [hu.others]; exact ⟨rfl, rfl, rfl, fun _ => ⟨rfl, rfl⟩⟩

/-! ## The transport -/

/-- What an operation takes from the transport is the front of its stream (45_wired_frame.md R340). -/
theorem Wrote.taken (h : Wrote s i u) :
    ∃ taken, s.tpIn = taken ++ u.tpIn ∧ (transmits i = false → (∀ τ, i ≠ .rxFrame τ) → taken = []) ∧
      (∀ f, i = .txFrame f → taken = []) := by
  have untouched {v : State} (hsame : v.tpIn = s.tpIn) :
      ∃ taken, s.tpIn = taken ++ v.tpIn ∧ (transmits i = false → (∀ τ, i ≠ .rxFrame τ) → taken = []) ∧
        (∀ f, i = .txFrame f → taken = []) := ⟨[], hsame.symm, fun _ _ => rfl, fun _ _ => rfl⟩
  cases h with
  | nothing | session | keyAdded | keyDeleted | bcdMade | recMade | addrMade | vdsMade | vdsDecoded | msgRead | deepRead
  | sent | initialized | moved => exact untouched rfl
  | msgMade => exact untouched (State.emit_tpIn _ _)
  | @received τ _ hu =>
    obtain ⟨es, hes⟩ := hu.taken
    exact ⟨es, hes, fun _ hrx => absurd rfl (hrx τ), fun _ => nofun⟩
  | exchanged hi _ _ _ hu =>
    obtain ⟨es, hes⟩ := hu.taken
    refine ⟨es, hes, fun hnot => ?_, ?_⟩
    · cases hnot.symm.trans (transmits_of_linkOperation hi)
    · rintro f rfl
      cases hi
  | readVds _ _ _ hu =>
    obtain ⟨es, hes⟩ := hu.taken
    exact ⟨es, hes, nofun, fun _ => nofun⟩
  | stepped hu =>
    obtain ⟨es, hes⟩ := hu.taken
    exact ⟨es, hes, nofun, fun _ => nofun⟩
  | ran _ _ hu =>
    obtain ⟨es, hes⟩ := hu.taken
    exact ⟨es, hes, nofun, fun _ => nofun⟩

/-- The frames an operation has sent (45_wired_frame.md R360; 48_scanner.md R436): of its own row, none unless it transmits, and
one unless it is a scan. -/
structure SentFrames (s : State) (i : Instr) (sent : List Bytes) : Prop where
  row : ∀ f ∈ sent, rowFrame s f i
  none : transmits i = false → sent = []
  one : transmits i = true → (∀ τ, i ≠ .scanStep τ) → (∀ m τ, i ≠ .scanRun m τ) → sent.length = 1
  head : ∀ f ∈ sent, f.head? ≠ some 0xE5#8
  length : (∀ f, i ≠ .txFrame f) → ∀ f ∈ sent, f.length ≤ 261

theorem SentFrames.nil (hi : transmits i = false) : SentFrames s i [] where
  row _ hf := nomatch hf
  none _ := rfl
  one h := nomatch hi.symm.trans h
  head _ hf := nomatch hf
  length _ _ hf := nomatch hf

theorem SentFrames.single {f : Bytes} (hi : transmits i = true) (hrow : rowFrame s f i) (hf : f.head? ≠ some 0xE5#8)
    (hlen : (∀ f, i ≠ .txFrame f) → f.length ≤ 261) : SentFrames s i [f] where
  row _ hg := List.mem_singleton.mp hg ▸ hrow
  none h := nomatch hi.symm.trans h
  one _ _ _ := rfl
  head _ hg := List.mem_singleton.mp hg ▸ hf
  length htx _ hg := List.mem_singleton.mp hg ▸ hlen htx

theorem ScanFrame.encodedFrame {p : Params} {f : Bytes} (h : ScanFrame p f) : EncodedFrame f := by
  obtain ⟨wild, hwild, rfl⟩ | rfl | rfl := h
  · exact encodedFrame_long.mpr (by omega)
  · exact encodedFrame_short _ _
  · exact encodedFrame_short _ _

/-- What an operation has sent is appended to what was sent before. -/
theorem Wrote.sent_frames (h : Wrote s i u) : ∃ sent, u.tpOut = s.tpOut ++ sent ∧ SentFrames s i sent := by
  have silent {v : State} (hi : transmits i = false) (hsame : v.tpOut = s.tpOut) :
      ∃ sent, v.tpOut = s.tpOut ++ sent ∧ SentFrames s i sent := ⟨[], by rw [hsame, List.append_nil], .nil hi⟩
  have scan {p : Params} {v : State} (hp : p = s.params) (hrow : ∀ f, ScanFrame p f → rowFrame s f i) (hi : transmits i = true)
      (hscan : ¬((∀ τ, i ≠ .scanStep τ) ∧ ∀ m τ, i ≠ .scanRun m τ))
      (hv : ∃ fs, v.tpOut = s.tpOut ++ fs ∧ ∀ f ∈ fs, ScanFrame p f) :
      ∃ sent, v.tpOut = s.tpOut ++ sent ∧ SentFrames s i sent := by
    obtain ⟨fs, hfs, hframes⟩ := hv
    exact ⟨fs, hfs, fun f hf => hrow f (hframes f hf), fun h => (nomatch hi.symm.trans h),
      fun _ hstep hrun => absurd ⟨hstep, hrun⟩ hscan, fun f hf => (hframes f hf).encodedFrame.1,
      fun _ f hf => (hframes f hf).encodedFrame.2⟩
  cases h with
  | nothing hi | bcdMade hi | recMade hi | addrMade hi | vdsMade hi | msgRead hi | moved hi =>
    exact silent (transmits_of_quiet hi) rfl
  | session | keyAdded | keyDeleted | vdsDecoded | deepRead | initialized => exact silent rfl rfl
  | msgMade => exact silent rfl (State.emit_tpOut _ _)
  | received hu => exact silent rfl (by rw [hu.others])
  | @sent f hf => exact ⟨[f], rfl, .single rfl rfl hf fun htx => absurd rfl (htx f)⟩
  | @exchanged _ f _ _ hi hf hframe _ hu =>
    exact ⟨[f], by rw [hu.others], .single (transmits_of_linkOperation hi) hf hframe.1 fun _ => hframe.2⟩
  | @readVds _ _ f _ _ _ hf hframe _ hu => exact ⟨[f], by rw [hu.others]; rfl, .single rfl hf hframe.1 fun _ => hframe.2⟩
  | stepped hu => exact scan rfl (fun _ hf => hf) rfl (fun h => h.1 _ rfl) hu.sent
  | ran _ _ hu => exact scan rfl (fun _ hf => hf) rfl (fun h => h.2 _ _ rfl) hu.sent

/-- A frame of the row of an operation has the shape of a row of R360, if the operation is well formed and the addresses it
can name are whole. -/
theorem mbcFrame_of_rowFrame {f : Bytes} (htx : ∀ f, i ≠ .txFrame f) (hwf : i.wf = true)
    (hwhole : ∀ a ∈ s.addresses, a.whole) (hlen : f.length ≤ 261) (h : rowFrame s f i) : mbcFrame s.params f := by
  have hdata {c a ci : Byte} {data : Bytes} (hf : f = encLongFrame c a ci data) : data.length ≤ Config.maxData := by
    rw [hf, encLongFrame_length] at hlen
    show data.length ≤ 252
    omega
  have hraw {sa : SaRef} {x : SecondaryAddress} (hx : saAt s sa = .ok x) : x.raw.length = Config.saLen :=
    (saAt_whole hwhole hx).2.2
  have short {c a : Byte} (hc : c = 0x7B#8 ∨ c = 0x5B#8 ∨ c = 0x40#8) (hf : f = shortFrame c a) : mbcFrame s.params f :=
    .inl ⟨c, a, hc, hf⟩
  have select {ci : Byte} {addr : Bytes} (hci : ci = 0x52#8 ∨ ci = 0x56#8) (haddr : addr.length = Config.saLen)
      (hf : f = encLongFrame s.params.cSndUdSel 0xFD#8 ci addr) : mbcFrame s.params f :=
    .inr (.inr (.inr ⟨ci, addr, hci, haddr, hf⟩))
  have scan (hf : ScanFrame s.params f) : mbcFrame s.params f := by
    obtain ⟨wild, hwild, hf⟩ | hf | hf := hf
    · exact select (.inl rfl) hwild hf
    · exact short (.inl rfl) hf
    · exact short (.inr (.inl rfl)) hf
  cases i with
  | txFrame g => exact absurd rfl (htx g)
  | lnkRead a τ =>
    refine short ?_ h
    split
    · exact .inl rfl
    · exact .inr (.inl rfl)
  | lnkWrite a payload τ => exact .inr (.inl ⟨_, a, payload, .inl rfl, hdata h, h⟩)
  | lnkReset a τ => exact short (.inr (.inr rfl)) h
  | lnkSelect sa τ =>
    obtain ⟨x, hx, hf⟩ := h
    exact select (.inl rfl) (hraw hx) hf
  | lnkDeselect sa τ =>
    obtain ⟨x, hx, hf⟩ := h
    exact select (.inr rfl) (hraw hx) hf
  | lnkSelrd a payload τ => exact .inr (.inl ⟨_, a, payload, .inr rfl, hdata h, h⟩)
  | lnkRstrd a τ => exact .inr (.inr (.inl ⟨a, h⟩))
  | lnkScansel wild τ => exact select (.inl rfl) (by simpa [Instr.wf, Config.saLen] using hwf) h
  | scanStep τ => exact scan h
  | scanRun m τ => exact scan h
  | _ => cases h

/-- LASTTX after an operation: as it was, none, or a frame that does not lead with E5 (R323, R342). -/
theorem Wrote.lastTx_cases (h : Wrote s i u) :
    u.lastTx = s.lastTx ∨ u.lastTx = none ∨ ∃ f, u.lastTx = some f ∧ f.head? ≠ some 0xE5#8 := by
  have scan {p : Params} {v w : State} (hv : v.lastTx = s.lastTx)
      (hw : w.lastTx = v.lastTx ∨ ∃ f, w.lastTx = some f ∧ ScanFrame p f) :
      w.lastTx = s.lastTx ∨ w.lastTx = none ∨ ∃ f, w.lastTx = some f ∧ f.head? ≠ some 0xE5#8 :=
    hw.imp (fun h => h.trans hv) fun ⟨f, hlast, hf⟩ => .inr ⟨f, hlast, hf.encodedFrame.1⟩
  cases h with
  | session => exact .inr (.inl rfl)
  | nothing | keyAdded | keyDeleted | bcdMade | recMade | addrMade | vdsMade | vdsDecoded | msgRead | deepRead
  | initialized | moved => exact .inl rfl
  | msgMade => exact .inl (State.emit_lastTx _ _)
  | received hu => exact .inl (by rw [hu.others])
  | @sent f hf => exact .inr (.inr ⟨f, rfl, hf⟩)
  | @exchanged _ f _ _ _ _ hframe _ hu => exact .inr (.inr ⟨f, by rw [hu.others], hframe.1⟩)
  | @readVds _ _ f _ _ _ _ hframe _ hu => exact .inr (.inr ⟨f, by rw [hu.others]; rfl, hframe.1⟩)
  | stepped hu => exact scan rfl hu.lastTx
  | ran _ _ hu => exact scan rfl hu.lastTx

/-- An operation that begins with LINK Idle leaves it Idle (R346). -/
theorem Wrote.link_idle (h : Wrote s i u) (hidle : s.link = .idle) : u.link = .idle := by
  cases h with
  | session => rfl
  | nothing | keyAdded | keyDeleted | bcdMade | recMade | addrMade | vdsMade | vdsDecoded | msgRead | deepRead | sent
  | initialized | moved => exact hidle
  | msgMade => exact (State.emit_link _ _).trans hidle
  | received hu => rw [hu.others]; exact hidle
  | exchanged _ _ _ _ hu => rw [hu.others]
  | readVds _ _ _ hu => rw [hu.others]; rfl
  | stepped hu => exact hu.link hidle
  | ran _ _ hu => exact hu.link hidle

/-- The scanner after an operation: a fresh one, or moved on from what it was or from the mask of the operation. -/
theorem Wrote.scanner_cases (h : Wrote s i u) :
    s.scanner.Moved u.scanner ∧ (∀ m, i ≠ .scanInit m) ∧ (∀ m τ, i ≠ .scanRun m τ) ∨
    (∃ kind port, i = .sesOpen kind port ∧ u.scanner = .init) ∨
    ∃ m sc, scanInitOp s.params.scanInitZero m = .ok sc ∧ sc.Moved u.scanner := by
  cases h with
  | session kind port => exact .inr (.inl ⟨kind, port, rfl, rfl⟩)
  | @initialized m sc hsc => exact .inr (.inr ⟨m, sc, hsc, .refl⟩)
  | @ran m _ sc _ hsc _ hu => exact .inr (.inr ⟨m, sc, hsc, hu.moved⟩)
  | nothing hi | bcdMade hi | recMade hi | addrMade hi | vdsMade hi | msgRead hi =>
    exact .inl ⟨.refl, ne_scanInit_of_quiet hi, ne_scanRun_of_quiet hi⟩
  | moved hi hsc => exact .inl ⟨hsc, ne_scanInit_of_quiet hi, ne_scanRun_of_quiet hi⟩
  | keyAdded | keyDeleted | vdsDecoded | deepRead | sent => exact .inl ⟨.refl, fun _ => nofun, fun _ _ => nofun⟩
  | msgMade => rw [State.emit_scanner]; exact .inl ⟨.refl, fun _ => nofun, fun _ _ => nofun⟩
  | received hu => exact .inl ⟨hu.moved, fun _ => nofun, fun _ _ => nofun⟩
  | exchanged hi _ _ _ hu =>
    refine .inl ⟨hu.moved, ?_, ?_⟩
    · rintro m rfl
      cases hi
    · rintro m τ rfl
      cases hi
  | readVds _ _ _ hu => exact .inl ⟨hu.moved, fun _ => nofun, fun _ _ => nofun⟩
  | stepped hu => exact .inl ⟨hu.moved, fun _ => nofun, fun _ _ => nofun⟩

end

/-- Settles O9: `Wrote.fcb_cases` and `Wrote.keymap_cases`. -/
theorem tablesHaveNoOtherWriters : Obligations.TablesHaveNoOtherWriters := by
  intro i s t hexec
  obtain ⟨u, hwrote, hanswer⟩ := exec_wrote hexec
  have hfcb : t.fcb = u.fcb := by obtain ⟨v, rfl⟩ | ⟨c, -, rfl⟩ := hanswer <;> rfl
  have hkeymap : t.keymap = u.keymap := by obtain ⟨v, rfl⟩ | ⟨c, -, rfl⟩ := hanswer <;> rfl
  rw [hfcb, hkeymap]
  refine ⟨fun hi => ?fcb, fun hi => ?keymap, fun a τ hi b hb => ?link, fun m τ hi b hb => ?scan⟩
  case keymap => exact hwrote.keymap_cases.resolve_right fun h => nomatch h.1.symm.trans hi
  all_goals obtain (hsame | ⟨a', τ', hi', hother⟩) | ⟨m', τ', hi', hother⟩ | ⟨kind, port, rfl⟩ := hwrote.fcb_cases
  case fcb.inl.inl => exact hsame
  case fcb.inl.inr => obtain rfl | rfl := hi' <;> cases hi
  case fcb.inr.inl => obtain rfl | rfl := hi' <;> cases hi
  case fcb.inr.inr => cases hi
  case link.inl.inl => rw [hsame]
  case link.inl.inr => obtain rfl | rfl := hi <;> obtain hi' | hi' := hi' <;> cases hi' <;> exact hother b hb
  case link.inr.inl => obtain rfl | rfl := hi <;> obtain hi' | hi' := hi' <;> cases hi'
  case link.inr.inr => obtain hi | hi := hi <;> cases hi
  case scan.inl.inl => rw [hsame]
  case scan.inl.inr => obtain rfl | rfl := hi <;> obtain hi' | hi' := hi' <;> cases hi'
  case scan.inr.inl => exact hother b hb
  case scan.inr.inr => obtain hi | hi := hi <;> cases hi

/-- Settles O15: `Wrote.taken`. -/
theorem transportIsReadForwardOnly : Obligations.TransportIsReadForwardOnly := by
  intro i s t hexec
  obtain ⟨u, hwrote, hanswer⟩ := exec_wrote hexec
  have hsame : t.tpIn = u.tpIn := by obtain ⟨v, rfl⟩ | ⟨c, -, rfl⟩ := hanswer <;> rfl
  rw [hsame]
  exact hwrote.taken

/-- Settles O13: `Wrote.sent_frames`, and the shape of a frame of a row. -/
theorem onlyFramesOfTheTableAreSent : Obligations.OnlyFramesOfTheTableAreSent := by
  intro i s t hexec
  obtain ⟨u, hwrote, hanswer⟩ := exec_wrote hexec
  have hsame : t.tpOut = u.tpOut := by obtain ⟨v, rfl⟩ | ⟨c, -, rfl⟩ := hanswer <;> rfl
  rw [hsame]
  obtain ⟨sent, hsent, hframes⟩ := hwrote.sent_frames
  exact ⟨sent, hsent, hframes.row, hframes.none, hframes.one, hframes.head, fun htx hwf hwhole f hf =>
    mbcFrame_of_rowFrame htx hwf hwhole (hframes.length htx f hf) (hframes.row f hf)⟩

end Sys2Proof.Machine

/-! The invariants of the scanner: what every move keeps, and what a mask makes (48_scanner.md R420, R424, R432). -/

namespace Sys2Proof.Machine

/-! ## Shape, finds, whole addresses -/

section
variable {sc u : Scanner}

theorem Scanner.Moved.shaped (h : sc.Moved u) (hs : sc.shaped) : u.shaped := by
  induction h with
  | refl => exact hs
  | abort _ ih => exact ⟨by rw [Scanner.abort_pos]; exact ih.1, by rw [Scanner.abort_value]; exact ih.2⟩
  | @adv v _ ih =>
    obtain ⟨hpos, hlen⟩ := ih
    obtain ⟨hpos', hlen'⟩ := Scanner.adv_shape (sc := v) (by rw [hlen]; exact Nat.lt_of_le_of_lt hpos (by decide))
    exact ⟨hpos'.trans hpos, hlen'.trans hlen⟩
  | narrow _ hpos ih => exact ⟨hpos, (Scanner.narrow_length _).trans ih.2⟩
  | record _ _ _ ih => exact ih
  | ended _ ih => exact ih

theorem Scanner.Moved.distinct (h : sc.Moved u) (hs : sc.distinct) : u.distinct := by
  induction h with
  | refl => exact hs
  | abort _ ih => unfold Scanner.distinct; rw [Scanner.abort_found]; exact ih
  | adv _ ih => unfold Scanner.distinct; rw [(Scanner.adv_others _).1]; exact ih
  | narrow _ _ ih => exact ih
  | record _ _ hnew ih =>
    refine List.pairwise_append.mpr ⟨ih, List.pairwise_singleton _ _, fun e he x hx => ?_⟩
    rw [List.mem_singleton.mp hx]
    exact hnew e he
  | ended _ ih => exact ih

theorem Scanner.Moved.found_whole (h : sc.Moved u) (hs : ∀ a ∈ sc.found, a.whole) : ∀ a ∈ u.found, a.whole := by
  induction h with
  | refl => exact hs
  | abort _ ih => rw [Scanner.abort_found]; exact ih
  | adv _ ih => rw [(Scanner.adv_others _).1]; exact ih
  | narrow _ _ ih => exact ih
  | record _ ha _ ih =>
    intro x hx
    obtain hx | hx := List.mem_append.mp hx
    · exact ih x hx
    · rw [List.mem_singleton.mp hx]
      exact ha
  | ended _ ih => exact ih

end

/-! ## Decided nibbles (R420, R432) -/

/-- `value[k]` for `k ≤ pos` is as it was, and every later nibble a wildcard (R430). -/
theorem wildAfter_getElem? {pos : Nat} {value : List Nat} {k : Nat} (hk : k < value.length) :
    (wildAfter pos value)[k]? = if k ≤ pos then value[k]? else some 15 := by
  unfold wildAfter
  split
  · next h => rw [List.getElem?_append_left (by simp; omega), List.getElem?_take_of_lt (by omega)]
  · next h =>
    rw [List.getElem?_append_right (by simp; omega), List.getElem?_replicate_of_lt (by simp; omega)]

/-- The nibbles of a scan but for the one at `pos`: what SCAN.ADV keeps while it carries. -/
def Scanner.carrying (sc : Scanner) : Prop :=
  sc.shaped ∧ (∀ k, 8 ≤ k → k < 16 → sc.value[k]? = some 15) ∧
    (sc.stop = false → ∀ k, k < sc.pos → sc.value.getD k 0 ≤ 10)

theorem Scanner.decided.carrying {sc : Scanner} (h : sc.decided) : sc.carrying :=
  ⟨h.1, h.2.1, fun hs k hk => h.2.2 hs k (Nat.le_of_lt hk)⟩

/-- The nibble at `pos` written: positions 8 to 15 stay wildcards, and the nibbles below `pos` stay. -/
theorem Scanner.carrying.set {sc : Scanner} (h : sc.carrying) (d : Nat) :
    Scanner.carrying { sc with value := sc.value.set sc.pos d } := by
  obtain ⟨⟨hpos, hlen⟩, hwild, hsmall⟩ := h
  have hpos : sc.pos ≤ 7 := hpos
  refine ⟨⟨hpos, by rw [List.length_set]; exact hlen⟩, fun k h8 h16 => ?_, fun hs k hk => ?_⟩
  · dsimp only
    rw [List.getElem?_set_ne (by omega)]
    exact hwild k h8 h16
  · have hk : k < sc.pos := hk
    rw [List.getD_eq_getElem?_getD, List.getElem?_set_ne (by omega), ← List.getD_eq_getElem?_getD]
    exact hsmall hs k hk

/-- A carried state whose nibble at `pos` is in range, or that has stopped, is a scan's. -/
theorem Scanner.carrying.decided {sc : Scanner} (h : sc.carrying) (hd : sc.stop = false → sc.value.getD sc.pos 0 ≤ 10) :
    sc.decided := by
  refine ⟨h.1, h.2.1, fun hs k hk => ?_⟩
  obtain hk | rfl := Nat.lt_or_eq_of_le hk
  · exact h.2.2 hs k hk
  · exact hd hs

/-- One nibble back: the nibble below takes the carry, everything right of it becomes a wildcard. -/
theorem Scanner.carrying.back {sc : Scanner} {n : Nat} (h : sc.carrying) (hn : sc.pos = n + 1) (d : Nat) :
    Scanner.carrying { sc with pos := n, value := wildAfter n (sc.value.set n d) } := by
  obtain ⟨⟨hpos, hlen⟩, hwild, hsmall⟩ := h
  have hpos : sc.pos ≤ 7 := hpos
  have hlen : sc.value.length = 16 := hlen
  have hset : (sc.value.set n d).length = 16 := by rw [List.length_set, hlen]
  refine ⟨⟨show n ≤ 7 by omega, (wildAfter_length (by omega)).trans hset⟩, fun k h8 h16 => ?_, fun hs k hk => ?_⟩
  · exact (wildAfter_getElem? (by omega)).trans (if_neg (by omega))
  · have hk : k < n := hk
    dsimp only
    rw [List.getD_eq_getElem?_getD, wildAfter_getElem? (by omega), if_pos (by omega), List.getElem?_set_ne (by omega),
      ← List.getD_eq_getElem?_getD]
    exact hsmall hs k (by omega)

theorem advCarry_decided (n : Nat) {sc : Scanner} (hn : sc.pos = n) (h : sc.carrying) : (advCarry n sc).decided := by
  induction n generalizing sc with
  | zero => exact Scanner.carrying.decided ⟨h.1, h.2.1, nofun⟩ nofun
  | succ n ih =>
    have hback := h.back hn (sc.value.getD n 0 + 1)
    have hlen : sc.value.length = 16 := h.1.2
    have hpos : sc.pos ≤ 7 := h.1.1
    rw [advCarry]
    split
    · exact ih rfl hback
    · next hd =>
      refine hback.decided fun _ => ?_
      dsimp only
      rw [List.getD_eq_getElem?_getD, wildAfter_getElem? (by rw [List.length_set]; omega), if_pos (Nat.le_refl n),
        List.getElem?_set_self (by omega)]
      exact Nat.le_of_not_lt hd

theorem Scanner.adv_decided {sc : Scanner} (h : sc.decided) : sc.adv.decided := by
  have hset := h.carrying.set (sc.value.getD sc.pos 0 + 1)
  have hlen : sc.value.length = 16 := h.1.2
  have hpos : sc.pos ≤ 7 := h.1.1
  unfold Scanner.adv
  extract_lets d next
  split
  · next hd =>
    refine hset.decided fun _ => ?_
    show (sc.value.set sc.pos d).getD sc.pos 0 ≤ 10
    rw [List.getD_eq_getElem?_getD, List.getElem?_set_self (by omega)]
    exact (Nat.le_of_lt hd : d ≤ 10)
  · exact advCarry_decided _ rfl hset

theorem Scanner.narrow_decided {sc : Scanner} (h : sc.decided) (hpos : sc.pos < 7) : sc.narrow.decided := by
  obtain ⟨⟨-, hlen⟩, hwild, hsmall⟩ := h
  have hlen : sc.value.length = 16 := hlen
  refine ⟨⟨hpos, (Scanner.narrow_length sc).trans hlen⟩, fun k h8 h16 => ?_, fun hs k hk => ?_⟩
  · exact (List.getElem?_set_ne (by omega)).trans (hwild k h8 h16)
  · have hk : k ≤ sc.pos + 1 := hk
    show (sc.value.set (sc.pos + 1) 0).getD k 0 ≤ 10
    rw [List.getD_eq_getElem?_getD]
    obtain hk | rfl := Nat.lt_or_eq_of_le hk
    · rw [List.getElem?_set_ne (by omega), ← List.getD_eq_getElem?_getD]
      exact hsmall hs k (Nat.le_of_lt_succ hk)
    · rw [List.getElem?_set_self (by omega)]
      exact Nat.zero_le _

theorem Scanner.abort_decided {sc : Scanner} (h : sc.decided) : sc.abort.decided := by
  unfold Scanner.decided Scanner.shaped
  rw [Scanner.abort_pos, Scanner.abort_value, Scanner.abort_stop]
  exact h

theorem Scanner.Moved.decided {sc u : Scanner} (h : sc.Moved u) (hs : sc.decided) : u.decided := by
  induction h with
  | refl => exact hs
  | abort _ ih => exact Scanner.abort_decided ih
  | adv _ ih => exact Scanner.adv_decided ih
  | narrow _ hpos ih => exact Scanner.narrow_decided ih hpos
  | record _ _ _ ih => exact ih
  | ended _ ih => exact ih

/-! ## The mask (R424) -/

/-- A mask character is a decimal digit or `f` or `F`. -/
theorem maskDigit_range {c : Char} {d : Nat} (h : maskDigit c = some d) : d ≤ 9 ∨ d = 15 := by
  unfold maskDigit at h
  split at h
  · cases h; omega
  · split at h
    · cases h; exact .inr rfl
    · cases h

/-- The digits of a mask, character by character. -/
theorem maskDigits_eq_some {m : List Char} {r : List Nat} :
    maskDigits m = some r ↔ List.Forall₂ (fun c d => maskDigit c = some d) m r := by
  induction m generalizing r with
  | nil =>
    rw [maskDigits]
    exact ⟨fun h => by cases h; exact .nil, fun h => by cases h; rfl⟩
  | cons c m ih =>
    rw [maskDigits]
    constructor
    · intro h
      obtain ⟨d, hd, h⟩ := Option.bind_eq_some_iff.mp h
      obtain ⟨ds, hds, h⟩ := Option.bind_eq_some_iff.mp h
      cases h
      exact .cons hd (ih.mp hds)
    · rintro (_ | ⟨hd, hds⟩)
      rw [hd, ih.mpr hds]
      rfl

/-- What SCAN.INIT completes with: a mask of 16 characters, flipped by pairs, of mask characters only. -/
theorem scanInitOp_ok {zero : Bool} {m : List Char} {sc : Scanner} (h : scanInitOp zero m = .ok sc) :
    ∃ flipped r, m.length = 16 ∧ flipPairs m = some flipped ∧ maskDigits flipped = some r ∧ sc = scannerOf zero r := by
  unfold scanInitOp at h
  split at h
  · cases h
  · next hlen =>
    split at h
    · next r hr =>
      obtain ⟨flipped, hflipped, hr⟩ := Option.bind_eq_some_iff.mp hr
      exact ⟨flipped, r, not_not.mp hlen, hflipped, hr, (Except.ok.inj h).symm⟩
    · cases h

/-- The nibbles of the mask of a scan: 16 of them, each a digit or a wildcard. -/
theorem maskNibbles {m flipped : List Char} {r : List Nat} (hlen : m.length = 16) (hflipped : flipPairs m = some flipped)
    (hr : maskDigits flipped = some r) : r.length = 16 ∧ ∀ d ∈ r, d ≤ 9 ∨ d = 15 := by
  have hforall := maskDigits_eq_some.mp hr
  obtain ⟨f, hf, hflen, -, -⟩ := flipPairs_of_even m (by omega)
  cases hf.symm.trans hflipped
  refine ⟨by rw [← hforall.length_eq, hflen, hlen], fun d hd => ?_⟩
  obtain ⟨k, hk⟩ := List.mem_iff_getElem?.mp hd
  obtain ⟨hklt, rfl⟩ := List.getElem?_eq_some_iff.mp hk
  exact maskDigit_range (hforall.get (by rw [hforall.length_eq]; exact hklt) hklt)

/-- Positions 8 to 15 of a mask's value are wildcards, and there are 16 of them. -/
theorem maskValue_length {r : List Nat} (h : r.length = 16) : (maskValue r).length = 16 := by
  simp [maskValue, h]

theorem maskValue_getElem? {r : List Nat} (h : r.length = 16) {k : Nat} (hk : k < 16) :
    (maskValue r)[k]? = if k < 8 then r[k]? else some 15 := by
  unfold maskValue
  split
  · next hlt => rw [List.getElem?_append_left (by simp; omega), List.getElem?_take_of_lt hlt]
  · next hge => rw [List.getElem?_append_right (by simp; omega), List.getElem?_replicate_of_lt (by simp; omega)]

/-- Before the first wildcard there is none; at it, if it is in the list, there is one. -/
theorem firstWild_spec (l : List Nat) :
    firstWild l ≤ l.length ∧ (∀ k, k < firstWild l → l[k]? ≠ some 15) ∧ (firstWild l < l.length → l[firstWild l]? = some 15) := by
  induction l with
  | nil => exact ⟨Nat.le_refl _, fun k hk => absurd hk (Nat.not_lt_zero k), fun h => absurd h (Nat.lt_irrefl _)⟩
  | cons d l ih =>
    obtain ⟨hle, hbefore, hat⟩ := ih
    rw [firstWild]
    split
    · next hd => exact ⟨Nat.zero_le _, fun k hk => absurd hk (Nat.not_lt_zero k), fun _ => congrArg some hd⟩
    · next hd =>
      rw [Nat.add_comm]
      refine ⟨Nat.succ_le_succ hle, fun k hk => ?_, fun h => ?_⟩
      · cases k with
        | zero => exact fun h => hd (Option.some.inj h)
        | succ k => exact hbefore k (Nat.lt_of_succ_lt_succ hk)
      · exact hat (Nat.lt_of_succ_lt_succ h)

theorem scannerOf_shaped {zero : Bool} {r : List Nat} (h : r.length = 16) : (scannerOf zero r).shaped := by
  refine ⟨Nat.min_le_right _ _, ?_⟩
  unfold scannerOf
  extract_lets value pos
  show (if _ then _ else _ : List Nat).length = 16
  split
  · rw [List.length_set]
    exact maskValue_length h
  · exact maskValue_length h

/-- Under SCAN_INIT_ZERO a mask makes decided nibbles up to the first wildcard, which becomes 0 (R424, D40). -/
theorem scannerOf_decided {r : List Nat} (hlen : r.length = 16) (hr : ∀ d ∈ r, d ≤ 9 ∨ d = 15) : (scannerOf true r).decided := by
  have hpos7 : maskPos (maskValue r) ≤ 7 := Nat.min_le_right _ _
  have hvalue : (scannerOf true r).value =
      if (maskValue r).getD (maskPos (maskValue r)) 0 = 15 then (maskValue r).set (maskPos (maskValue r)) 0
      else maskValue r := by
    simp [scannerOf]
  have hdigit {k : Nat} (hk : k ≤ 7) (hne : (maskValue r)[k]? ≠ some 15) : (maskValue r).getD k 0 ≤ 10 := by
    rw [maskValue_getElem? hlen (by omega), if_pos (by omega)] at hne
    rw [List.getD_eq_getElem?_getD, maskValue_getElem? hlen (by omega), if_pos (by omega)]
    have hk' : k < r.length := by omega
    rw [List.getElem?_eq_getElem hk'] at hne ⊢
    obtain h | h := hr _ (List.getElem_mem hk')
    · exact Nat.le_succ_of_le h
    · exact absurd (congrArg some h) hne
  refine ⟨scannerOf_shaped hlen, fun k h8 h16 => ?_, fun _ k hk => ?_⟩
  · have hwild : (maskValue r)[k]? = some 15 := (maskValue_getElem? hlen h16).trans (if_neg (by omega))
    rw [hvalue]
    split
    · rw [List.getElem?_set_ne (by omega)]
      exact hwild
    · exact hwild
  · have hk : k ≤ maskPos (maskValue r) := hk
    have hlenv := maskValue_length hlen
    rw [hvalue]
    obtain hk | rfl := Nat.lt_or_eq_of_le hk
    · have hbefore := (firstWild_spec (maskValue r)).2.1 k (Nat.lt_of_lt_of_le hk (Nat.min_le_left _ _))
      split
      · rw [List.getD_eq_getElem?_getD, List.getElem?_set_ne (by omega), ← List.getD_eq_getElem?_getD]
        exact hdigit (by omega) hbefore
      · exact hdigit (by omega) hbefore
    · split
      · rw [List.getD_eq_getElem?_getD, List.getElem?_set_self (by omega)]
        exact Nat.zero_le _
      · next hne =>
        refine hdigit hpos7 fun h => hne ?_
        rw [List.getD_eq_getElem?_getD, h]
        rfl

section
variable {zero : Bool} {m : List Char} {sc : Scanner}

theorem scanInitOp_shaped (h : scanInitOp zero m = .ok sc) : sc.shaped := by
  obtain ⟨flipped, r, hlen, hflipped, hr, rfl⟩ := scanInitOp_ok h
  exact scannerOf_shaped (maskNibbles hlen hflipped hr).1

theorem scanInitOp_decided (h : scanInitOp true m = .ok sc) : sc.decided := by
  obtain ⟨flipped, r, hlen, hflipped, hr, rfl⟩ := scanInitOp_ok h
  obtain ⟨hrlen, hdigits⟩ := maskNibbles hlen hflipped hr
  exact scannerOf_decided hrlen hdigits

/-- A scan begins with nothing found, no stop and no abort (R424). -/
theorem scanInitOp_fresh (h : scanInitOp zero m = .ok sc) :
    sc.found = [] ∧ sc.stop = false ∧ sc.abortReq = false ∧ sc.running = true := by
  obtain ⟨-, -, -, -, -, rfl⟩ := scanInitOp_ok h
  exact ⟨rfl, rfl, rfl, rfl⟩

end

/-- Settles O5: SCAN.INIT makes decided nibbles, and every move keeps them. -/
theorem scannerNibblesStayDecided : Obligations.ScannerNibblesStayDecided := by
  intro i s t hzero hexec
  obtain ⟨u, hwrote, hanswer⟩ := exec_wrote hexec
  have hsame : t.scanner = u.scanner := by obtain ⟨v, rfl⟩ | ⟨c, -, rfl⟩ := hanswer <;> rfl
  rw [hsame]
  obtain ⟨hmoved, hinit, hrun⟩ | ⟨kind, port, rfl, -⟩ | ⟨m, sc, hsc, hmoved⟩ := hwrote.scanner_cases
  · exact ⟨fun _ h => hmoved.decided h, fun m τ hi => hi.elim (fun h => absurd h (hinit m)) fun h => absurd h (hrun m τ)⟩
  · exact ⟨fun hopen => absurd rfl (hopen kind port), fun m τ hi => by obtain h | h := hi <;> cases h⟩
  · rw [hzero] at hsc
    have hdecided := hmoved.decided (scanInitOp_decided hsc)
    exact ⟨fun _ _ => hdecided, fun _ _ _ => hdecided⟩

end Sys2Proof.Machine

/-! What every step keeps: the invariant, whole addresses, objects, and the answer on the CMD port. -/

namespace Sys2Proof.Machine

/-! ## Steps -/

/-- A step that gives a next state waits, runs an operation without the input it took, or forwards an event. -/
theorem step_next {s t : State} (h : step s = .next t) :
    t = s ∨ (∃ i rest, exec i { s with inp := rest } = .next t) ∨ ∃ e rest, t = State.emit e { s with inp := rest } := by
  have forwarded {e : Event} {rest : List Input} (h : forwardEvent e { s with inp := rest } = .next t) :
      t = State.emit e { s with inp := rest } := by
    unfold forwardEvent at h
    split at h
    · exact (Host.Outcome.next.inj h).symm
    · cases h
  unfold step at h
  split at h
  · exact .inl (Host.Outcome.next.inj h).symm
  · split at h
    · exact .inr (.inl ⟨_, _, h⟩)
    · cases h
  · exact .inr (.inl ⟨_, _, h⟩)
  · exact .inr (.inr ⟨_, _, forwarded h⟩)
  · exact .inr (.inr ⟨_, _, forwarded h⟩)

/-- A property of the state that no input, no answer and no event touches, and that every operation keeps, every step keeps. -/
theorem step_keeps {P : State → Prop} (hinp : ∀ s rest, P s → P { s with inp := rest })
    (hresp : ∀ s r, P s → P { s with resp := r }) (hevts : ∀ s es, P s → P { s with evts := es })
    (hwrote : ∀ s i u, Wrote s i u → P s → P u) {s t : State} (hs : P s) (h : step s = .next t) : P t := by
  obtain rfl | ⟨i, rest, hexec⟩ | ⟨e, rest, rfl⟩ := step_next h
  · exact hs
  · obtain ⟨u, hu, ⟨v, rfl⟩ | ⟨c, -, rfl⟩⟩ := exec_wrote hexec
    · exact hresp _ _ (hwrote _ _ _ hu (hinp _ _ hs))
    · exact hresp _ _ (hwrote _ _ _ hu (hinp _ _ hs))
  · rw [State.emit_eq]
    exact hevts _ _ (hinp _ _ hs)

/-! ## The invariant -/

section
variable {s u : State} {i : Instr}

/-- The scanner keeps its shape and its distinct finds. -/
theorem Wrote.scanner_inv (h : Wrote s i u) (hs : s.scanner.shaped ∧ s.scanner.distinct) :
    u.scanner.shaped ∧ u.scanner.distinct := by
  obtain ⟨hmoved, -, -⟩ | ⟨-, -, -, hinit⟩ | ⟨m, sc, hsc, hmoved⟩ := h.scanner_cases
  · exact ⟨hmoved.shaped hs.1, hmoved.distinct hs.2⟩
  · rw [hinit]
    exact ⟨Scanner.init_shaped, Scanner.init_distinct⟩
  · refine ⟨hmoved.shaped (scanInitOp_shaped hsc), hmoved.distinct ?_⟩
    unfold Scanner.distinct
    rw [(scanInitOp_fresh hsc).1]
    exact .nil

theorem Wrote.inv (h : Wrote s i u) (hs : s.Inv) : u.Inv := by
  obtain ⟨hshaped, hdistinct⟩ := h.scanner_inv ⟨hs.shaped, hs.distinct⟩
  refine ⟨?keymap, h.link_idle hs.link, ?lastTx, hshaped, hdistinct⟩
  case keymap =>
    obtain hk | ⟨-, hk | ⟨key, a, hkey, -, hk⟩ | ⟨raw, hk⟩⟩ := h.keymap_cases
    · rw [hk]; exact hs.keymap
    · rw [hk]; rfl
    · rw [hk]; exact KeyMap.wf_add hs.keymap hkey
    · rw [hk]; exact KeyMap.wf_del hs.keymap
  case lastTx =>
    obtain hlast | hlast | ⟨f, hlast, hf⟩ := h.lastTx_cases
    · rw [hlast]; exact hs.lastTx
    · rw [hlast]; exact nofun
    · rw [hlast]
      rintro _ ⟨⟩
      exact hf

/-! ## Whole addresses -/

/-- The addresses of a state, by where they stand. -/
theorem State.addresses_whole {s : State} :
    (∀ a ∈ s.addresses, a.whole) ↔
      (∀ a ∈ s.addrs, a.whole) ∧ (∀ a ∈ s.scanner.found, a.whole) ∧
      (∀ v ∈ s.vdss, ∀ a, v.llAddr = some a ∨ v.secondaryAddress = some a → a.whole) ∧
      (∀ m ∈ s.msgs, ∀ a, m.secondaryAddress = some a → a.whole) := by
  simp only [State.addresses, List.forall_mem_append, List.forall_mem_flatMap, Option.mem_toList, or_imp, forall_and,
    and_assoc]

theorem State.Supplies.whole {a : SecondaryAddress} (h : s.Supplies a) (hs : ∀ a ∈ s.addresses, a.whole) : a.whole :=
  h.elim (hs a) id

theorem Vds.SuppliedBy.whole {v : Vds} (h : v.SuppliedBy s) (hs : ∀ a ∈ s.addresses, a.whole) :
    ∀ a, v.llAddr = some a ∨ v.secondaryAddress = some a → a.whole :=
  fun a ha => (h a ha).whole hs

theorem forall_mem_set {α : Type} {p : α → Prop} {l : List α} {n : Nat} {x : α} (hl : ∀ a ∈ l, p a) (hx : p x) :
    ∀ a ∈ l.set n x, p a := by
  intro a ha
  obtain ha | rfl := List.mem_or_eq_of_mem_set ha
  · exact hl a ha
  · exact hx

theorem forall_mem_concat {α : Type} {p : α → Prop} {l : List α} {x : α} (hl : ∀ a ∈ l, p a) (hx : p x) :
    ∀ a ∈ l ++ [x], p a :=
  List.forall_mem_append.mpr ⟨hl, List.forall_mem_singleton.mpr hx⟩

/-- The finds of the scanner stay whole addresses. -/
theorem Wrote.found_whole (h : Wrote s i u) (hs : ∀ a ∈ s.scanner.found, a.whole) : ∀ a ∈ u.scanner.found, a.whole := by
  obtain ⟨hmoved, -, -⟩ | ⟨-, -, -, hinit⟩ | ⟨m, sc, hsc, hmoved⟩ := h.scanner_cases
  · exact hmoved.found_whole hs
  · rw [hinit]; exact nofun
  · refine hmoved.found_whole ?_
    rw [(scanInitOp_fresh hsc).1]
    exact nofun

theorem Wrote.addresses_whole (h : Wrote s i u) (hs : ∀ a ∈ s.addresses, a.whole) : ∀ a ∈ u.addresses, a.whole := by
  obtain ⟨haddrs, hfound, hvdss, hmsgs⟩ := State.addresses_whole.mp hs
  refine State.addresses_whole.mpr ?_
  have hfound := h.found_whole hfound
  cases h with
  | session => exact ⟨nofun, hfound, nofun, nofun⟩
  | nothing | keyAdded | keyDeleted | bcdMade | recMade | sent | initialized | moved => exact ⟨haddrs, hfound, hvdss, hmsgs⟩
  | addrMade _ ha => exact ⟨forall_mem_concat haddrs ha, hfound, hvdss, hmsgs⟩
  | vdsMade _ hv => exact ⟨haddrs, hfound, forall_mem_concat hvdss (hv.whole hs), hmsgs⟩
  | vdsDecoded _ _ hw => exact ⟨haddrs, hfound, forall_mem_set hvdss (hw.whole hs), hmsgs⟩
  | msgMade =>
    rw [State.emit_addrs, State.emit_vdss, State.emit_msgs]
    exact ⟨haddrs, hfound, hvdss, forall_mem_concat hmsgs nofun⟩
  | msgRead _ _ _ ha => exact ⟨haddrs, hfound, hvdss, forall_mem_set hmsgs fun a h => (ha a h).whole hs⟩
  | deepRead _ _ ha hv =>
    exact ⟨haddrs, hfound, forall_mem_concat hvdss (hv.whole hs), forall_mem_set hmsgs fun a h => (ha a h).whole hs⟩
  | received hu =>
    rw [hu.others]
    exact ⟨haddrs, hfound, hvdss, hmsgs⟩
  | exchanged _ _ _ _ hu =>
    rw [hu.others]
    exact ⟨haddrs, hfound, hvdss, hmsgs⟩
  | readVds _ _ _ hu hv =>
    rw [hu.others]
    exact ⟨haddrs, hfound, forall_mem_concat hvdss (hv.whole hs), hmsgs⟩
  | stepped hu =>
    rw [hu.others]
    exact ⟨haddrs, hfound, hvdss, hmsgs⟩
  | ran _ _ hu =>
    rw [hu.others]
    exact ⟨haddrs, hfound, hvdss, hmsgs⟩

/-- KEYMAP lists addresses of 8 bytes only. -/
theorem Wrote.keymap_lengths (h : Wrote s i u) (hs : ∀ a ∈ s.addresses, a.whole) (hk : ∀ e ∈ s.keymap, e.1.length = 8) :
    ∀ e ∈ u.keymap, e.1.length = 8 := by
  have hall {m : KeyMap} : (∀ e ∈ m, e.1.length = 8) ↔ m.all (fun e => e.1.length == 8) = true := by
    simp only [List.all_eq_true, beq_iff_eq]
  rw [hall] at hk ⊢
  obtain h' | ⟨-, h' | ⟨key, a, -, ha, h'⟩ | ⟨raw, h'⟩⟩ := h.keymap_cases
  · rw [h']; exact hk
  · rw [h']; rfl
  · rw [h']
    exact KeyMap.all_add hk (beq_iff_eq.mpr (ha.whole hs).2.2)
  · rw [h']; exact KeyMap.all_del hk

/-! ## Objects -/

/-- What was made stays as it was made (10_state.md section 4). -/
structure ObjectsKept (s u : State) : Prop where
  bcds : ∀ (n : Nat) (x : Bcd), s.bcds[n]? = some x → u.bcds[n]? = some x
  addrs : ∀ (n : Nat) (x : SecondaryAddress), s.addrs[n]? = some x → u.addrs[n]? = some x
  recs : ∀ (n : Nat) (x : DataRecord), s.recs[n]? = some x → u.recs[n]? = some x
  vdss : ∀ (n : Nat) (v : Vds), s.vdss[n]? = some v → v.phase ≠ .raw → u.vdss[n]? = some v
  msgs : ∀ (n : Nat) (m : WlMessage), s.msgs[n]? = some m →
    ∃ m', u.msgs[n]? = some m' ∧ m'.buf = m.buf ∧ m'.rssi = m.rssi

theorem getElem?_concat_of_some {α : Type} {l : List α} {n : Nat} {x : α} (y : α) (h : l[n]? = some x) :
    (l ++ [y])[n]? = some x := by
  rw [List.getElem?_append_left (List.getElem?_eq_some_iff.mp h).1, h]

/-- A message written over one with the same buffer. -/
theorem set_msg_kept {l : List WlMessage} {n : Nat} {m m' : WlMessage} (hm : l[n]? = some m)
    (hbuf : m'.buf = m.buf ∧ m'.rssi = m.rssi) (k : Nat) (x : WlMessage) (hx : l[k]? = some x) :
    ∃ y, (l.set n m')[k]? = some y ∧ y.buf = x.buf ∧ y.rssi = x.rssi := by
  by_cases hk : n = k
  · subst hk
    cases hm.symm.trans hx
    exact ⟨m', List.getElem?_set_self (List.getElem?_eq_some_iff.mp hm).1, hbuf⟩
  · exact ⟨x, by rw [List.getElem?_set_ne hk, hx], rfl, rfl⟩

theorem Wrote.objects_kept (h : Wrote s i u) (hi : ∀ kind port, i ≠ .sesOpen kind port) : ObjectsKept s u := by
  have hbcds : ∀ (n : Nat) (x : Bcd), s.bcds[n]? = some x → s.bcds[n]? = some x := fun _ _ => id
  have haddrs : ∀ (n : Nat) (x : SecondaryAddress), s.addrs[n]? = some x → s.addrs[n]? = some x := fun _ _ => id
  have hrecs : ∀ (n : Nat) (x : DataRecord), s.recs[n]? = some x → s.recs[n]? = some x := fun _ _ => id
  have hvdss (n : Nat) (v : Vds) (hv : s.vdss[n]? = some v) (_ : v.phase ≠ .raw) : s.vdss[n]? = some v := hv
  have hvdss' (w : Vds) (n : Nat) (v : Vds) (hv : s.vdss[n]? = some v) (_ : v.phase ≠ .raw) :
      (s.vdss ++ [w])[n]? = some v := getElem?_concat_of_some w hv
  have hmsgs (n : Nat) (m : WlMessage) (hm : s.msgs[n]? = some m) :
      ∃ m', s.msgs[n]? = some m' ∧ m'.buf = m.buf ∧ m'.rssi = m.rssi := ⟨m, hm, rfl, rfl⟩
  cases h with
  | session kind port => exact absurd rfl (hi kind port)
  | nothing | keyAdded | keyDeleted | sent | initialized | moved => exact ⟨hbcds, haddrs, hrecs, hvdss, hmsgs⟩
  | bcdMade _ x => exact ⟨fun _ _ => getElem?_concat_of_some x, haddrs, hrecs, hvdss, hmsgs⟩
  | recMade _ r => exact ⟨hbcds, haddrs, fun _ _ => getElem?_concat_of_some r, hvdss, hmsgs⟩
  | addrMade => exact ⟨hbcds, fun _ _ => getElem?_concat_of_some _, hrecs, hvdss, hmsgs⟩
  | vdsMade => exact ⟨hbcds, haddrs, hrecs, hvdss' _, hmsgs⟩
  | @vdsDecoded n v w hv hraw _ =>
    refine ⟨hbcds, haddrs, hrecs, fun k x hx hphase => ?_, hmsgs⟩
    have hne : n ≠ k := by
      rintro rfl
      cases hv.symm.trans hx
      exact hphase hraw
    exact (List.getElem?_set_ne hne).trans hx
  | msgMade =>
    rw [State.emit_eq]
    exact ⟨hbcds, haddrs, hrecs, hvdss, fun n m hm => ⟨m, getElem?_concat_of_some _ hm, rfl, rfl⟩⟩
  | msgRead _ hm hbuf => exact ⟨hbcds, haddrs, hrecs, hvdss, set_msg_kept hm hbuf⟩
  | deepRead hm hbuf => exact ⟨hbcds, haddrs, hrecs, hvdss' _, set_msg_kept hm hbuf⟩
  | received hu =>
    rw [hu.others]
    exact ⟨hbcds, haddrs, hrecs, hvdss, hmsgs⟩
  | exchanged _ _ _ _ hu =>
    rw [hu.others]
    exact ⟨hbcds, haddrs, hrecs, hvdss, hmsgs⟩
  | readVds _ _ _ hu =>
    rw [hu.others]
    exact ⟨hbcds, haddrs, hrecs, hvdss' _, hmsgs⟩
  | stepped hu =>
    rw [hu.others]
    exact ⟨hbcds, haddrs, hrecs, hvdss, hmsgs⟩
  | ran _ _ hu =>
    rw [hu.others]
    exact ⟨hbcds, haddrs, hrecs, hvdss, hmsgs⟩

end

/-- Settles O4: `Wrote.inv`, over every step. -/
theorem everyStepKeepsTheInvariant : Obligations.EveryStepKeepsTheInvariant := fun _ _ hs h =>
  step_keeps (fun _ _ ⟨hk, hl, ht, hsh, hd⟩ => ⟨hk, hl, ht, hsh, hd⟩) (fun _ _ ⟨hk, hl, ht, hsh, hd⟩ => ⟨hk, hl, ht, hsh, hd⟩)
    (fun _ _ ⟨hk, hl, ht, hsh, hd⟩ => ⟨hk, hl, ht, hsh, hd⟩) (fun _ _ _ hwrote hs => hwrote.inv hs) hs h

/-- Settles O8: `Wrote.addresses_whole` and `Wrote.keymap_lengths`, over every step. -/
theorem everyStepKeepsAddressesWhole : Obligations.EveryStepKeepsAddressesWhole := fun _ _ hs h =>
  step_keeps (P := fun s => (∀ a ∈ s.addresses, a.whole) ∧ ∀ e ∈ s.keymap, e.1.length = 8) (fun _ _ => id) (fun _ _ => id)
    (fun _ _ => id) (fun _ _ _ hwrote ⟨ha, hk⟩ => ⟨hwrote.addresses_whole ha, hwrote.keymap_lengths ha hk⟩) hs h

/-- Settles O14: `Wrote.objects_kept`. -/
theorem objectsAreImmutable : Obligations.ObjectsAreImmutable := by
  intro i s t hi hexec
  obtain ⟨u, hwrote, hanswer⟩ := exec_wrote hexec
  obtain ⟨hbcds, haddrs, hrecs, hvdss, hmsgs⟩ := hwrote.objects_kept hi
  obtain ⟨v, rfl⟩ | ⟨c, -, rfl⟩ := hanswer
  · exact ⟨hbcds, haddrs, hrecs, hvdss, hmsgs⟩
  · exact ⟨hbcds, haddrs, hrecs, hvdss, hmsgs⟩

/-! ## LINK before a link operation (45_wired_frame.md R346) -/

theorem needLink_of_wireless {s : State} (h : s.kind = .wireless) : needLink s = .error (.faulted .noTransport) := by
  rw [needLink, needTransport, h]
  rfl

theorem needLink_of_busy {s : State} (hk : s.kind = .wired) (hl : s.link = .awaitingResponse) :
    needLink s = .error (.refused .linkBusy) := by
  rw [needLink, needTransport, if_pos hk, hl]
  rfl

/-- An operation that looks at LINK ends there if it may not start. -/
theorem exec_of_needLink_error {i : Instr} {s : State} {e : Ending} (hi : looksAtLink i = true) (h : needLink s = .error e) :
    exec i s = proceed (.error e : Run Unit) (fun _ => .next s) s := by
  have hbind {α : Type} (r : Run α) (k : α → Out) :
      proceed (do needLink s; r) k s = proceed (.error e : Run Unit) (fun _ => .next s) s := by
    rw [h]
    obtain _ | _ | _ := e <;> rfl
  have hproceed (k : Unit → Out) :
      proceed (needLink s) k s = proceed (.error e : Run Unit) (fun _ => .next s) s := by
    rw [h]
    obtain _ | _ | _ := e <;> rfl
  cases i with
  | txFrame | lnkWrite | lnkReset | lnkSelect | lnkDeselect | lnkSelrd | lnkRstrd | lnkScansel => exact hbind _ _
  | rxFrame | lnkRead | scanStep => exact hproceed _
  | _ => cases hi

/-- Settles O7: `needLink` decides whether the operation starts, and `Wrote.link_idle` says what it leaves. -/
theorem linkIsIdleAfterEveryLinkOperation : Obligations.LinkIsIdleAfterEveryLinkOperation := by
  intro i s hi
  have hfault (hk : s.kind = .wireless) : exec i s = .fault .noTransport :=
    exec_of_needLink_error hi (needLink_of_wireless hk)
  have hbusy (hk : s.kind = .wired) (hl : s.link = .awaitingResponse) : exec i s = .refused .linkBusy :=
    exec_of_needLink_error hi (needLink_of_busy hk hl)
  refine ⟨fun t hexec => ?_, hbusy, hfault⟩
  have hkind : s.kind = .wired := by
    cases hk : s.kind with
    | wired => rfl
    | wireless => cases (hfault hk).symm.trans hexec
  have hlink : s.link = .idle := by
    cases hl : s.link with
    | idle => rfl
    | awaitingResponse => cases (hbusy hkind hl).symm.trans hexec
  obtain ⟨u, hwrote, ⟨v, rfl⟩ | ⟨c, -, rfl⟩⟩ := exec_wrote hexec
  · exact ⟨hkind, hlink, hwrote.link_idle hlink⟩
  · exact ⟨hkind, hlink, hwrote.link_idle hlink⟩

end Sys2Proof.Machine

/-! An operation answers over whatever stood on the CMD port before (log 26): no part of an operation reads it. -/

namespace Sys2Proof.Machine

/-- The CMD port's answer written over. -/
def State.setResp (y : Option Response) (s : State) : State := { s with resp := y }

section
variable {y : Option Response}

/-! ## The transport -/

theorem rxFrame_setResp (s : State) : rxFrame (s.setResp y) = (rxFrame s).map id (State.setResp y) := by
  have hlink : (rxFrame s).2.link = s.link := by rw [(rxFrame_received s).others]
  calc rxFrame (s.setResp y) = (rxFrame s).map id (State.setLinkResp s.link y) := rxFrame_setLinkResp s.link y s
    _ = (rxFrame s).map id (State.setResp y) := by
      refine Prod.ext rfl ?_
      show (rxFrame s).2.setLinkResp s.link y = (rxFrame s).2.setResp y
      rw [← hlink]
      rfl

theorem exchange_setResp {g : State → State} (hg : ∀ t, g (t.setResp y) = (g t).setResp y) (f : Bytes) (s : State) :
    exchange f g (s.setResp y) = (exchange f g s).map id (State.setResp y) := by
  unfold exchange
  rw [← rxFrame_setResp, ← hg]
  rfl

theorem ackExchange_setResp {onAck : State → State} (hack : ∀ t, onAck (t.setResp y) = (onAck t).setResp y) (f : Bytes)
    (s : State) : ackExchange f onAck (s.setResp y) = ackExchange f onAck s := by
  unfold ackExchange
  rw [exchange_setResp (g := id) (fun _ => rfl)]
  match exchange f id s with
  | (.ok .singleCharacter, t) =>
    show Host.Outcome.next (((onAck (t.setResp y)).setLink .idle).respond .none) = _
    rw [hack]
    rfl
  | (.ok (.long _), t) => rfl
  | (.error c, t) => rfl

theorem ackOp_setResp {onAck : State → State} (hack : ∀ t, onAck (t.setResp y) = (onAck t).setResp y) (frame : Run Bytes)
    (s : State) : ackOp frame onAck (s.setResp y) = ackOp frame onAck s := by
  unfold ackOp
  simp only [ackExchange_setResp hack]
  rfl

/-- LNK.READ without its object: the exchange, and what it makes of the answer (R350). -/
theorem readExchange_eq (a : Byte) (s : State) :
    readExchange a s =
      let x := exchange (encShortFrame (reqUd2Control (fcbGet s.fcb a)) a) (fun s => s.setFcb (fcbToggle s.fcb a)) s
      (x.1 >>= fun fr => readAnswer fr x.2, x.2.setLink .idle) := by
  unfold readExchange
  match exchange (encShortFrame (reqUd2Control (fcbGet s.fcb a)) a) (fun s => s.setFcb (fcbToggle s.fcb a)) s with
  | (.ok fr, t) => rfl
  | (.error c, t) => rfl

theorem readAnswer_setResp (fr : WiredFrame) (s : State) : readAnswer fr (s.setResp y) = readAnswer fr s := by
  cases fr <;> rfl

theorem readExchange_setResp (a : Byte) (s : State) :
    readExchange a (s.setResp y) = (readExchange a s).map id (State.setResp y) := by
  have hx := exchange_setResp (y := y) (g := fun s => s.setFcb (fcbToggle s.fcb a)) (fun _ => rfl)
    (encShortFrame (reqUd2Control (fcbGet s.fcb a)) a) s
  refine (readExchange_eq a (s.setResp y)).trans ?_
  rw [readExchange_eq, show (s.setResp y).fcb = s.fcb from rfl, hx]
  refine Prod.ext ?_ rfl
  show (_ >>= fun fr => readAnswer fr (State.setResp y _)) = (_ >>= fun fr => readAnswer fr _)
  simp only [readAnswer_setResp]
  rfl

theorem scanselExchange_setResp (f : Bytes) (s : State) :
    scanselExchange f (s.setResp y) = (scanselExchange f s).map id (State.setResp y) := by
  rw [scanselExchange_eq, scanselExchange_eq, exchange_setResp (g := id) (fun _ => rfl)]
  rfl

/-! ## The scan -/

theorem State.emit_setResp (e : Event) (s : State) : (s.setResp y).emit e = (s.emit e).setResp y := by
  rw [State.emit_eq, State.emit_eq]
  rfl

theorem probe_setResp (f : Bytes) (s : State) : probe f (s.setResp y) = (probe f s).map id (State.setResp y) := by
  rw [probe_eq, probe_eq, scanselExchange_setResp]
  match scanselExchange f s with
  | (false, t) => rfl
  | (true, t) =>
    show (readOutcome (readExchange Config.selAddr (t.setResp y)).1, (readExchange Config.selAddr (t.setResp y)).2) = _
    rw [readExchange_setResp]
    simp only [if_true]
    generalize readExchange Config.selAddr t = x
    rfl

theorem scanMessage_setResp (s : State) : (s.setResp y).scanMessage = s.scanMessage.setResp y := by
  unfold State.scanMessage
  show ((s.setResp y).emit _).drawFree = _
  rw [State.emit_setResp]
  rfl

theorem found_setResp (a : SecondaryAddress) (s : State) : (s.setResp y).found a = (s.found a).setResp y := by
  unfold State.found
  show (if s.scanner.found.any _ then _ else ((s.setScanner (s.scanner.record a)).setResp y).emit _) = _
  split
  · rfl
  · exact State.emit_setResp _ _

theorem scanMove_setResp (o : ScanOutcome) (s : State) : scanMove o (s.setResp y) = (scanMove o s).setResp y := by
  cases o with
  | noAnswer => rfl
  | one a =>
    rw [scanMove, found_setResp]
    rfl
  | collision => rfl

theorem scanStep_setResp (s : State) : scanStep (s.setResp y) = (scanStep s).setResp y := by
  rw [scanStep_eq, scanStep_eq, show probeFrame (s.setResp y) = probeFrame s from rfl, probe_setResp]
  show scanMove _ ((probe (probeFrame s) s).2.setResp y).scanMessage = _
  rw [scanMessage_setResp, scanMove_setResp]
  rfl

theorem lookAtAbort_setResp (s : State) : (s.setResp y).lookAtAbort = s.lookAtAbort.setResp y := by
  rw [State.lookAtAbort_eq, State.lookAtAbort_eq]
  rfl

theorem scanLoop_setResp (fuel : Nat) (s : State) : scanLoop fuel (s.setResp y) = (scanLoop fuel s).setResp y := by
  induction fuel generalizing s with
  | zero => exact lookAtAbort_setResp s
  | succ n ih =>
    unfold scanLoop
    dsimp only
    rw [lookAtAbort_setResp, scanStep_setResp, ih]
    show (if s.lookAtAbort.scanner.stop || s.lookAtAbort.scanner.abortReq then _ else _) = _
    split
    · rfl
    · rfl

end

/-! ## Every operation -/

/-- No operation reads what the CMD port returned before it. -/
theorem exec_setResp (i : Instr) (s : State) (y : Option Response) : exec i (s.setResp y) = exec i s := by
  cases i with
  | wlNew buf rssi =>
    show execWlNew buf rssi (s.setResp y) = execWlNew buf rssi s
    unfold execWlNew deliver
    rw [State.emit_eq, State.emit_eq]
    rfl
  | rxFrame τ =>
    show execRxFrame τ (s.setResp y) = execRxFrame τ s
    unfold execRxFrame
    rw [rxFrame_setResp]
    match rxFrame s with
    | (.ok fr, t) => rfl
    | (.error c, t) => rfl
  | lnkRead a τ =>
    show execLnkRead a τ (s.setResp y) = execLnkRead a τ s
    unfold execLnkRead
    rw [readExchange_setResp]
    match readExchange a s with
    | (.ok v, t) => rfl
    | (.error c, t) => rfl
  | lnkReset a τ => exact ackOp_setResp (onAck := fun s => s.setFcb (fcbSet s.fcb a)) (fun _ => rfl) _ s
  | lnkWrite | lnkSelect | lnkDeselect | lnkSelrd | lnkRstrd => exact ackOp_setResp (onAck := id) (fun _ => rfl) _ s
  | lnkScansel wild τ =>
    show execLnkScansel wild τ (s.setResp y) = execLnkScansel wild τ s
    unfold execLnkScansel
    simp only [scanselExchange_setResp]
    rfl
  | scanStep τ =>
    show execScanStep τ (s.setResp y) = execScanStep τ s
    unfold execScanStep
    rw [scanStep_setResp]
    rfl
  | scanRun m τ =>
    have hloop (sc : Scanner) : (scanLoop scanBound ((s.setResp y).setScanner sc)).endScan =
        (scanLoop scanBound (s.setScanner sc)).endScan := by
      have hend (t : State) : (t.setResp y).endScan = t.endScan := rfl
      rw [show (s.setResp y).setScanner sc = (s.setScanner sc).setResp y from rfl, scanLoop_setResp, hend]
    show execScanRun m τ (s.setResp y) = execScanRun m τ s
    unfold execScanRun
    simp only [hloop]
    rfl
  | _ => rfl

/-- Settles O12: the answer by `exec_wrote`, the rest by `Wrote.session_kept` and `exec_setResp`. -/
theorem everyOperationAnswers : Obligations.EveryOperationAnswers := by
  intro i s t y hexec
  obtain ⟨u, hwrote, hanswer⟩ := exec_wrote hexec
  have hkept := hwrote.session_kept
  refine ⟨?answers, (exec_setResp i s y).trans hexec, ?kept⟩
  · obtain ⟨v, rfl⟩ | ⟨c, -, rfl⟩ := hanswer
    · exact nofun
    · exact nofun
  · obtain ⟨v, rfl⟩ | ⟨c, -, rfl⟩ := hanswer
    · exact hkept
    · exact hkept

end Sys2Proof.Machine

/-! SCAN.INIT, SCAN.NARROW and SCAN.ADV: what each makes of the nibbles (48_scanner.md R424, R428, R430). -/

namespace Sys2Proof.Machine

/-! ## Mask characters (R424) -/

/-- The value of a mask character. -/
def maskCharValue (c : Char) : Nat := if c = 'f' ∨ c = 'F' then 15 else c.toNat - 48

theorem maskDigit_of_mem {c : Char} (h : c ∈ maskChars) : maskDigit c = some (maskCharValue c) := by
  simp only [maskChars, List.mem_cons, List.not_mem_nil, or_false] at h
  rcases h with rfl | rfl | rfl | rfl | rfl | rfl | rfl | rfl | rfl | rfl | rfl | rfl <;> rfl

theorem mem_maskChars_of_maskDigit {c : Char} {d : Nat} (h : maskDigit c = some d) : c ∈ maskChars := by
  unfold maskDigit at h
  split at h
  · next hrange =>
    obtain ⟨h0, h9⟩ := hrange
    rw [← Char.ofNat_toNat c]
    generalize c.toNat = n at h0 h9
    interval_cases n <;> decide
  · split at h
    · next hf => obtain rfl | rfl := hf <;> decide
    · cases h

theorem maskDigits_of_mem {m : List Char} (h : ∀ c ∈ m, c ∈ maskChars) : maskDigits m = some (m.map maskCharValue) := by
  rw [maskDigits_eq_some, List.forall₂_map_right_iff]
  exact List.forall₂_same.mpr fun c hc => maskDigit_of_mem (h c hc)

/-- The flipped mask has the characters of the mask. -/
theorem mem_of_flipPairs {m r : List Char} (h : flipPairs m = some r) : ∀ c, c ∈ m ↔ c ∈ r := by
  match m with
  | [] => cases h; exact fun _ => Iff.rfl
  | [_] => cases h
  | a :: b :: m =>
    obtain ⟨r, hr, rfl⟩ := Option.map_eq_some_iff.mp h
    intro c
    simp only [List.mem_cons, mem_of_flipPairs hr c]
    exact or_left_comm

/-- SCAN.INIT completes on 16 mask characters, and on nothing else. -/
theorem scanInitOp_of_mask {m : List Char} (zero : Bool) (hlen : m.length = 16) (hm : ∀ c ∈ m, c ∈ maskChars) :
    ∃ flipped, flipPairs m = some flipped ∧ scanInitOp zero m = .ok (scannerOf zero (flipped.map maskCharValue)) := by
  obtain ⟨flipped, hflipped, -, -, -⟩ := flipPairs_of_even m (by omega)
  refine ⟨flipped, hflipped, ?_⟩
  have hdigits := maskDigits_of_mem fun c hc => hm c ((mem_of_flipPairs hflipped c).mpr hc)
  have hbind : (flipPairs m >>= maskDigits) = some (flipped.map maskCharValue) := by rw [hflipped]; exact hdigits
  rw [scanInitOp, if_neg (show ¬(m.length ≠ Config.scanNibbles) from not_not_intro hlen), hbind]

theorem scanInitOp_of_no_mask {m : List Char} (zero : Bool) (h : m.length ≠ 16 ∨ ∃ c ∈ m, c ∉ maskChars) :
    scanInitOp zero m = .error (.refused .badMask) := by
  match hop : scanInitOp zero m with
  | .ok sc =>
    obtain ⟨flipped, r, hlen, hflipped, hr, -⟩ := scanInitOp_ok hop
    obtain hne | ⟨c, hc, hnot⟩ := h
    · exact absurd hlen hne
    · have hforall := maskDigits_eq_some.mp hr
      obtain ⟨k, hk, rfl⟩ := List.mem_iff_getElem.mp ((mem_of_flipPairs hflipped c).mp hc)
      exact absurd (mem_maskChars_of_maskDigit (hforall.get hk (hforall.length_eq ▸ hk))) hnot
  | .error e =>
    unfold scanInitOp at hop
    split at hop
    · exact hop ▸ rfl
    · split at hop
      · cases hop
      · exact hop ▸ rfl

theorem exec_scanInit (m : List Char) (s : State) : exec (.scanInit m) s = execScanInit m s := rfl

section
variable {s : State} (hk : s.kind = .wired)
include hk

theorem execScanInit_of_ok {m : List Char} {sc : Scanner} (h : scanInitOp s.params.scanInitZero m = .ok sc) :
    execScanInit m s = .next ((s.setScanner sc).answerScanner) := by
  rw [execScanInit, needScanner_ok.mpr hk, h]
  rfl

theorem execScanInit_of_refused {m : List Char} {x : Refusal}
    (h : scanInitOp s.params.scanInitZero m = .error (.refused x)) : execScanInit m s = .refused x := by
  rw [execScanInit, needScanner_ok.mpr hk, h]
  rfl

end

/-- The nibbles of a scanner that a mask makes: those of the mask up to position 7, but for the one at `pos`. -/
theorem scannerOf_value {zero : Bool} {r : List Nat} (hlen : r.length = 16) :
    (∀ k, k < 8 → k ≠ (scannerOf zero r).pos → (scannerOf zero r).value[k]? = r[k]?) ∧
    (scannerOf zero r).value[(scannerOf zero r).pos]? =
      some (if zero = true ∧ r.getD (scannerOf zero r).pos 0 = 15 then 0 else r.getD (scannerOf zero r).pos 0) ∧
    (∀ k, 8 ≤ k → k < 16 → (scannerOf zero r).value[k]? = some 15) := by
  have hpos : maskPos (maskValue r) ≤ 7 := Nat.min_le_right _ _
  have hvlen := maskValue_length hlen
  have hgetD {k : Nat} (hk : k < 8) : (maskValue r).getD k 0 = r.getD k 0 := by
    rw [List.getD_eq_getElem?_getD, maskValue_getElem? hlen (by omega), if_pos hk, ← List.getD_eq_getElem?_getD]
  have hvalue : (scannerOf zero r).value =
      if zero = true ∧ r.getD (maskPos (maskValue r)) 0 = 15 then (maskValue r).set (maskPos (maskValue r)) 0
      else maskValue r := by
    rw [← hgetD (by omega)]
    simp [scannerOf]
  have hother {k : Nat} (hk : k ≠ maskPos (maskValue r)) : (scannerOf zero r).value[k]? = (maskValue r)[k]? := by
    rw [hvalue]
    split
    · exact List.getElem?_set_ne hk.symm
    · rfl
  refine ⟨fun k h8 hne => ?_, ?_, fun k h8 h16 => ?_⟩
  · rw [hother hne, maskValue_getElem? hlen (by omega), if_pos h8]
  · show (scannerOf zero r).value[maskPos (maskValue r)]? =
      some (if zero = true ∧ r.getD (maskPos (maskValue r)) 0 = 15 then 0 else r.getD (maskPos (maskValue r)) 0)
    rw [hvalue]
    split
    · exact List.getElem?_set_self (by omega)
    · rw [← hgetD (by omega), List.getD_eq_getElem?_getD, List.getElem?_eq_getElem (by omega)]
      rfl
  · rw [hother (by omega), maskValue_getElem? hlen h16, if_neg (by omega)]

/-- `pos` of a scanner that a mask makes: the first wildcard of the first eight nibbles, clamped to 7 (R424). -/
theorem scannerOf_pos {zero : Bool} {r : List Nat} (hlen : r.length = 16) :
    (scannerOf zero r).pos ≤ 7 ∧ (∀ k, k < (scannerOf zero r).pos → r[k]? ≠ some 15) ∧
    ((scannerOf zero r).pos < 7 → r[(scannerOf zero r).pos]? = some 15) := by
  have hvlen := maskValue_length hlen
  obtain ⟨hle, hbefore, hat⟩ := firstWild_spec (maskValue r)
  have hpos : (scannerOf zero r).pos = min (firstWild (maskValue r)) 7 := rfl
  refine ⟨by omega, fun k hk => ?_, fun hlt => ?_⟩
  · have h := hbefore k (by omega)
    rwa [maskValue_getElem? hlen (by omega), if_pos (by omega)] at h
  · have hfirst : (scannerOf zero r).pos = firstWild (maskValue r) := by omega
    have h := hat (by omega)
    rw [maskValue_getElem? hlen (by omega), if_pos (by omega)] at h
    rwa [hfirst]

/-- The character of the mask that stands at nibble `k`: the other one of its pair (D38). -/
theorem flipPairs_getElem? {m flipped : List Char} (hlen : m.length = 16) (h : flipPairs m = some flipped) {k : Nat}
    (hk : k < 16) : flipped[k]? = some (m.getD (if k % 2 = 0 then k + 1 else k - 1) 'f') := by
  obtain ⟨f, hf, -, hget, -⟩ := flipPairs_of_even m (by omega)
  cases hf.symm.trans h
  obtain ⟨heven, hodd⟩ := hget (k / 2) (by omega)
  have hmem (j : Nat) (hj : j < 16) : m[j]? = some (m.getD j 'f') := by
    rw [List.getD_eq_getElem?_getD, List.getElem?_eq_getElem (by omega)]
    rfl
  split
  · rw [← hmem _ (by omega), ← show 2 * (k / 2) + 1 = k + 1 by omega, ← heven, show 2 * (k / 2) = k by omega]
  · rw [← hmem _ (by omega), ← show 2 * (k / 2) = k - 1 by omega, ← hodd, show 2 * (k / 2) + 1 = k by omega]

/-- Settles O53: `scannerOf_pos` and `scannerOf_value` of the flipped mask. -/
theorem scanInitReadsTheMask : Obligations.ScanInitReadsTheMask := by
  intro m s hk
  refine ⟨fun hbad => ?bad, fun hlen hm d hd => ?mask⟩
  case bad => exact execScanInit_of_refused hk (scanInitOp_of_no_mask _ hbad)
  case mask =>
    obtain ⟨flipped, hflipped, hop⟩ := scanInitOp_of_mask s.params.scanInitZero hlen hm
    obtain ⟨f, hf, hflen, -, -⟩ := flipPairs_of_even m (by omega)
    cases hf.symm.trans hflipped
    have hrlen : (flipped.map maskCharValue).length = 16 := by rw [List.length_map, hflen, hlen]
    have hr {k : Nat} (hk : k < 16) : (flipped.map maskCharValue)[k]? = some (d k) := by
      rw [List.getElem?_map, flipPairs_getElem? hlen hflipped hk, hd]
      rfl
    obtain ⟨hpos, hbefore, hat⟩ := scannerOf_pos (zero := s.params.scanInitZero) hrlen
    obtain ⟨hother, hself, hwild⟩ := scannerOf_value (zero := s.params.scanInitZero) hrlen
    generalize hsc : scannerOf s.params.scanInitZero (flipped.map maskCharValue) = sc at *
    have hfresh := scanInitOp_fresh hop
    obtain ⟨hfound, hstop, habort, hrunning⟩ := hfresh
    refine ⟨sc, execScanInit_of_ok hk hop, hfound, hstop, habort, hrunning, (scanInitOp_shaped hop).2, hpos,
      fun k hk h => hbefore k hk ?_, fun hlt => ?_, fun k h8 hne => ?_, ?_, hwild⟩
    · rw [hr (by omega), h]
    · exact Option.some.inj ((hr (by omega)).symm.trans (hat hlt))
    · rw [hother k h8 hne, hr (by omega)]
    · rw [hself, List.getD_eq_getElem?_getD, hr (by omega)]
      rfl

/-! ## Narrowing (R428) -/

theorem exec_scanNarrow (s : State) : exec .scanNarrow s = execScanNarrow s := rfl
theorem exec_scanAdv (s : State) : exec .scanAdv s = execScanAdv s := rfl

section
variable {s : State}

theorem execScanNarrow_of_lt (hk : s.kind = .wired) (hpos : s.scanner.pos < 7) :
    execScanNarrow s = .next ((s.setScanner s.scanner.narrow).answerScanner) := by
  rw [execScanNarrow, scanNarrowOp, needScanner_ok.mpr hk]
  exact congrArg (fun r => finish r (fun sc => (s.setScanner sc).answerScanner) s) (if_pos hpos)

theorem execScanNarrow_of_max (hk : s.kind = .wired) (hpos : 7 ≤ s.scanner.pos) :
    execScanNarrow s = .refused .narrowAtMaxPos := by
  rw [execScanNarrow, scanNarrowOp, needScanner_ok.mpr hk]
  exact congrArg (fun r => finish r (fun sc => (s.setScanner sc).answerScanner) s) (if_neg (Nat.not_lt.mpr hpos))

theorem execScanAdv_of_wired (hk : s.kind = .wired) :
    execScanAdv s = .next ((s.setScanner s.scanner.adv).answerScanner) := by
  rw [execScanAdv, needScanner_ok.mpr hk]
  rfl

theorem needScanner_of_wireless (hk : s.kind = .wireless) : needScanner s = .error (.faulted .noScanner) := by
  rw [needScanner, hk]
  rfl

end

/-- Settles O54: `Scanner.narrow`. -/
theorem scanNarrowGoesOneNibbleFiner : Obligations.ScanNarrowGoesOneNibbleFiner := by
  intro s hk hpos hlen
  exact ⟨_, execScanNarrow_of_lt hk hpos, List.getElem?_set_self (by omega), fun k hne => List.getElem?_set_ne (Ne.symm hne)⟩

/-! ## Advancing (R430) -/

/-- Below the nibble that took the carry nothing changes. -/
theorem wildAfter_set_below {n k : Nat} {value : List Nat} (d : Nat) (hn : n < value.length) (hk : k < n) :
    (wildAfter n (value.set n d)).getD k 0 = value.getD k 0 ∧
    (wildAfter n (value.set n d)).take k = value.take k := by
  have hget {j : Nat} (hj : j < n) : (wildAfter n (value.set n d))[j]? = value[j]? := by
    rw [wildAfter_getElem? (by rw [List.length_set]; omega), if_pos (by omega), List.getElem?_set_ne (by omega)]
  refine ⟨by rw [List.getD_eq_getElem?_getD, hget hk, ← List.getD_eq_getElem?_getD], List.ext_getElem? fun j => ?_⟩
  by_cases hj : j < k
  · rw [List.getElem?_take_of_lt hj, List.getElem?_take_of_lt hj, hget (by omega)]
  · rw [List.getElem?_eq_none (by simp; omega), List.getElem?_eq_none (by simp; omega)]

/-- The nibble that takes the carry, and wildcards after it. -/
theorem wildAfter_set_self {n : Nat} {value : List Nat} (d : Nat) (hn : n < value.length) (hlen : value.length = 16) :
    wildAfter n (value.set n d) = value.take n ++ [d] ++ List.replicate (15 - n) 15 := by
  unfold wildAfter
  have hlast : 16 - (n + 1) = 15 - n := by omega
  rw [List.length_set, hlen, hlast, List.take_add_one, List.getElem?_set_self hn, List.take_set_of_le (Nat.le_refl n)]
  rfl

/-- The carry loop stops at the nearest nibble that does not exceed 10 after the increment. -/
theorem advCarry_of_takes {sc : Scanner} {n k : Nat} (hn : n ≤ sc.value.length) (hlen : sc.value.length = 16) (hk : k < n)
    (htakes : sc.value.getD k 0 + 1 ≤ 10) (hbetween : ∀ j, k < j → j < n → 10 < sc.value.getD j 0 + 1) :
    advCarry n sc =
      { sc with pos := k, value := sc.value.take k ++ [sc.value.getD k 0 + 1] ++ List.replicate (15 - k) 15 } := by
  induction n generalizing sc with
  | zero => exact absurd hk (Nat.not_lt_zero k)
  | succ n ih =>
    rw [advCarry]
    obtain hlt | rfl := Nat.lt_or_eq_of_le (Nat.le_of_lt_succ hk)
    · have hbelow (j : Nat) (hj : j < n) :=
        (wildAfter_set_below (k := j) (value := sc.value) (sc.value.getD n 0 + 1) hn hj)
      have hwlen : (wildAfter n (sc.value.set n (sc.value.getD n 0 + 1))).length = 16 := by
        rw [wildAfter_length (by rw [List.length_set]; omega), List.length_set, hlen]
      rw [if_pos (hbetween n hlt (Nat.lt_succ_self n)), ih (by dsimp only; omega) hwlen hlt]
      · dsimp only
        rw [(hbelow k hlt).1, (hbelow k hlt).2]
      · dsimp only
        rw [(hbelow k hlt).1]
        exact htakes
      · intro j hkj hj
        dsimp only
        rw [(hbelow j hj).1]
        exact hbetween j hkj (Nat.lt_succ_of_lt hj)
    · rw [if_neg (Nat.not_lt.mpr htakes), wildAfter_set_self _ hn hlen]

/-- The carry loop stops the scan at position 0 if no nibble takes the carry. -/
theorem advCarry_of_none {sc : Scanner} {n : Nat} (hn : n < sc.value.length) (hlen : sc.value.length = 16)
    (hall : ∀ j, j ≤ n → 10 < sc.value.getD j 0 + 1) :
    advCarry (n + 1) sc =
      { sc with pos := 0, stop := true, value := (sc.value.getD 0 0 + 1) :: List.replicate 15 15 } := by
  induction n generalizing sc with
  | zero =>
    rw [advCarry, if_pos (hall 0 (Nat.le_refl 0)), wildAfter_set_self _ hn hlen]
    rfl
  | succ n ih =>
    have hbelow (j : Nat) (hj : j < n + 1) :=
      (wildAfter_set_below (k := j) (value := sc.value) (sc.value.getD (n + 1) 0 + 1) hn hj).1
    have hwlen : (wildAfter (n + 1) (sc.value.set (n + 1) (sc.value.getD (n + 1) 0 + 1))).length = 16 := by
      rw [wildAfter_length (by rw [List.length_set]; omega), List.length_set, hlen]
    rw [advCarry, if_pos (hall (n + 1) (Nat.le_refl _)), ih (by dsimp only; omega) hwlen]
    · dsimp only
      rw [hbelow 0 (Nat.succ_pos n)]
    · intro j hj
      dsimp only
      rw [hbelow j (Nat.lt_succ_of_le hj)]
      exact hall j (Nat.le_succ_of_le hj)

/-- SCAN.ADV writes `pos`, `value` and `stop`. -/
theorem Scanner.adv_eq (sc : Scanner) : sc.adv = { sc with pos := sc.adv.pos, value := sc.adv.value, stop := sc.adv.stop } := by
  obtain ⟨hfound, habort, hrunning, -⟩ := Scanner.adv_others sc
  generalize sc.adv = u at *
  obtain ⟨pos, value, found, stop, abortReq, running⟩ := u
  cases hfound
  cases habort
  cases hrunning
  rfl

/-- Settles O55: `advCarry_of_takes` and `advCarry_of_none` say where the carry ends. -/
theorem scanAdvTakesTheNextCandidate : Obligations.ScanAdvTakesTheNextCandidate := by
  intro s
  refine ⟨fun hk => ⟨?adv, ?narrow⟩, fun hk hpos => execScanNarrow_of_max hk hpos, fun hk hshaped p v hp hv => ?moves⟩
  case adv => rw [exec_scanAdv, execScanAdv, needScanner_of_wireless hk]; rfl
  case narrow => rw [exec_scanNarrow, execScanNarrow, scanNarrowOp, needScanner_of_wireless hk]; rfl
  case moves =>
    obtain ⟨hpos, hlen⟩ := hshaped
    have hpos : s.scanner.pos ≤ 7 := hpos
    have hlen : s.scanner.value.length = 16 := hlen
    have hplt : s.scanner.pos < s.scanner.value.length := by omega
    have hcarry (h : 10 ≤ s.scanner.value.getD s.scanner.pos 0 + 1) : s.scanner.adv = advCarry s.scanner.pos
        { s.scanner with value := s.scanner.value.set s.scanner.pos (s.scanner.value.getD s.scanner.pos 0 + 1) } :=
      if_neg (Nat.not_lt.mpr h)
    have hsetlen (d : Nat) : (s.scanner.value.set s.scanner.pos d).length = 16 := by rw [List.length_set, hlen]
    have hset (d : Nat) {j : Nat} (hj : j < s.scanner.pos) :
        (s.scanner.value.set s.scanner.pos d).getD j 0 = s.scanner.value.getD j 0 := by
      rw [List.getD_eq_getElem?_getD, List.getElem?_set_ne (by omega), ← List.getD_eq_getElem?_getD]
    have hadv := Scanner.adv_eq s.scanner
    subst hp hv
    refine ⟨s.scanner.adv.pos, s.scanner.adv.value, s.scanner.adv.stop, ?next, (Scanner.adv_shape hplt).2.trans hlen,
      fun hlt => ?digit, fun hge h0 => ?first, fun hge k hk htakes hbetween => ?takes, fun hge h0 hall => ?none⟩
    case next =>
      rw [exec_scanAdv, execScanAdv_of_wired hk, ← hadv]
      rfl
    case digit =>
      have h : s.scanner.adv =
          { s.scanner with value := s.scanner.value.set s.scanner.pos (s.scanner.value.getD s.scanner.pos 0 + 1) } :=
        if_pos hlt
      rw [h]
      exact ⟨rfl, rfl, rfl⟩
    case first =>
      rw [hcarry hge, h0]
      exact ⟨h0, rfl, rfl⟩
    case takes =>
      rw [hcarry hge, advCarry_of_takes (by dsimp only; rw [hsetlen]; omega) (hsetlen _) hk]
      · dsimp only
        rw [hset _ hk, List.take_set_of_le (Nat.le_of_lt hk)]
        exact ⟨rfl, rfl, rfl⟩
      · dsimp only
        rw [hset _ hk]
        exact htakes
      · intro j hkj hj
        dsimp only
        rw [hset _ hj]
        exact hbetween j hkj hj
    case none =>
      obtain ⟨n, hn⟩ : ∃ n, s.scanner.pos = n + 1 := ⟨s.scanner.pos - 1, by omega⟩
      have hsetn := @hset
      rw [hcarry hge]
      rw [hn] at hsetn hsetlen ⊢
      rw [advCarry_of_none (by dsimp only; rw [hsetlen]; omega) (hsetlen _)]
      · dsimp only
        rw [hsetn _ (Nat.succ_pos n)]
        exact ⟨rfl, rfl, rfl⟩
      · intro j hj
        dsimp only
        rw [hsetn _ (Nat.lt_succ_of_le hj)]
        exact hall j (by omega)

end Sys2Proof.Machine

/-! SCAN.STEP is its parts, and SCAN.RUN ends: a scan visits the nodes of a tree of eight nibbles of eleven values each, and
every step leaves fewer of them (48_scanner.md R434 to R439). -/

namespace Sys2Proof.Machine

/-! ## What a probe leaves of the state -/

/-- `u` is `s` after exchanges of a scan: what SCAN.STEP relies on afterwards. -/
structure State.Probed (s u : State) : Prop where
  kind : u.kind = s.kind
  vdss : u.vdss = s.vdss
  evts : u.evts = s.evts
  free : u.free = s.free
  listener : u.listener = s.listener
  link : u.link = .idle
  scanner : u.scanner = s.scanner ∨ u.scanner = s.scanner.abort

theorem State.Exchanged.probed {s u : State} {f : Bytes} {fcb : BitVec 256} (h : State.Exchanged s f fcb u) :
    State.Probed s u := by
  refine ⟨?_, ?_, ?_, ?_, ?_, ?_, h.scanner⟩
  all_goals rw [h.others]

theorem State.Probed.trans {s t u : State} (h : State.Probed s t) (h' : State.Probed t u) : State.Probed s u where
  kind := h'.kind.trans h.kind
  vdss := h'.vdss.trans h.vdss
  evts := h'.evts.trans h.evts
  free := h'.free.trans h.free
  listener := h'.listener.trans h.listener
  link := h'.link
  scanner := by
    obtain h1 | h1 := h.scanner <;> obtain h2 | h2 := h'.scanner <;> rw [h2, h1]
    · exact .inl rfl
    · exact .inr rfl
    · exact .inr rfl
    · exact .inr (Scanner.abort_abort _)

section
variable {s u : State}

/-- The nibbles and the finds are those before the probe. -/
theorem State.Probed.nibbles (h : State.Probed s u) :
    u.scanner.pos = s.scanner.pos ∧ u.scanner.value = s.scanner.value ∧ u.scanner.found = s.scanner.found := by
  obtain h | h := h.scanner <;> rw [h]
  · exact ⟨rfl, rfl, rfl⟩
  · exact ⟨Scanner.abort_pos _, Scanner.abort_value _, Scanner.abort_found _⟩

theorem scanselExchange_probed (f : Bytes) (s : State) : State.Probed s (scanselExchange f s).2 :=
  (scanselExchange_exchanged f s).probed

theorem readExchange_probed (a : Byte) (s : State) : State.Probed s (readExchange a s).2 :=
  (readExchange_exchanged a s).probed

theorem probe_probed (f : Bytes) (s : State) : State.Probed s (probe f s).2 := by
  rw [probe_eq]
  split
  · exact (scanselExchange_probed f s).trans (readExchange_probed _ _)
  · exact scanselExchange_probed f s

/-- The message of a step, after the probe, with the CMD port and the VDS table as they may stand. -/
theorem State.Probed.scanMessage_eq (h : State.Probed s u) :
    u.scanMessage = { u with
      evts := if s.listener then s.evts ++ [.onScanMessage (Config.scanMessageText s.free)] else s.evts
      free := s.free + 1 } := by
  unfold State.scanMessage
  rw [State.emit_eq, h.evts, h.free, h.listener]
  rfl

end

/-! ## Nodes left (R439) -/

/-- The nodes of a tree of `h` levels, eleven children each. -/
def subtreeNodes : Nat → Nat
  | 0 => 0
  | h + 1 => 1 + 11 * subtreeNodes h

/-- The nodes under the later siblings of the nibbles before position `n`. -/
def siblingNodes (n : Nat) (value : List Nat) : Nat :=
  ∑ k ∈ Finset.range n, (10 - value.getD k 0) * subtreeNodes (8 - k)

/-- The nodes a scan may still visit, the present one included. -/
def Scanner.remaining (sc : Scanner) : Nat := subtreeNodes (8 - sc.pos) + siblingNodes (sc.pos + 1) sc.value

theorem siblingNodes_succ (n : Nat) (value : List Nat) :
    siblingNodes (n + 1) value = siblingNodes n value + (10 - value.getD n 0) * subtreeNodes (8 - n) :=
  Finset.sum_range_succ _ n

theorem siblingNodes_congr {n : Nat} {v w : List Nat} (h : ∀ k, k < n → v.getD k 0 = w.getD k 0) :
    siblingNodes n v = siblingNodes n w :=
  Finset.sum_congr rfl fun k hk => by rw [h k (Finset.mem_range.mp hk)]

/-- A level more is the node itself and eleven subtrees. -/
theorem subtreeNodes_down {p : Nat} (h : p < 8) : subtreeNodes (8 - p) = 1 + 11 * subtreeNodes (8 - (p + 1)) := by
  obtain ⟨k, hk⟩ : ∃ k, 8 - p = k + 1 := ⟨7 - p, by omega⟩
  rw [hk, show 8 - (p + 1) = k by omega, subtreeNodes]

/-- The nibble at `p` raised by one leaves one subtree less. -/
theorem siblingNodes_raised {p : Nat} {v w : List Nat} (hbelow : ∀ k, k < p → w.getD k 0 = v.getD k 0)
    (hp : w.getD p 0 = v.getD p 0 + 1) (hle : v.getD p 0 + 1 ≤ 10) :
    subtreeNodes (8 - p) + siblingNodes (p + 1) w = siblingNodes (p + 1) v := by
  rw [siblingNodes_succ, siblingNodes_succ, siblingNodes_congr hbelow, hp,
    show 10 - v.getD p 0 = (10 - (v.getD p 0 + 1)) + 1 by omega, Nat.add_mul]
  omega

section
variable {sc : Scanner}

theorem Scanner.remaining_pos (h : sc.pos ≤ 7) : 0 < sc.remaining := by
  rw [Scanner.remaining, subtreeNodes_down (by omega)]
  omega

/-- No scan has more nodes to visit than `Σ 11^k` for `k` from 1 to 8. -/
theorem nodes_le {p : Nat} (value : List Nat) (h : p ≤ 7) :
    subtreeNodes (8 - p) + siblingNodes (p + 1) value ≤ scanBound := by
  induction p with
  | zero =>
    have hle : (10 - value.getD 0 0) * subtreeNodes 8 ≤ 10 * subtreeNodes 8 := Nat.mul_le_mul_right _ (Nat.sub_le _ _)
    have hnodes : subtreeNodes 8 = 21435888 := rfl
    rw [siblingNodes_succ]
    show subtreeNodes 8 + (0 + (10 - value.getD 0 0) * subtreeNodes 8) ≤ 235794768
    omega
  | succ p ih =>
    have ih := ih (by omega)
    have hle : (10 - value.getD (p + 1) 0) * subtreeNodes (8 - (p + 1)) ≤ 10 * subtreeNodes (8 - (p + 1)) :=
      Nat.mul_le_mul_right _ (Nat.sub_le _ _)
    rw [subtreeNodes_down (by omega)] at ih
    rw [siblingNodes_succ (p + 1)]
    omega

theorem Scanner.narrow_remaining (hlen : sc.value.length = 16) (hpos : sc.pos < 7) : sc.narrow.remaining < sc.remaining := by
  have hbelow (k : Nat) (hk : k < sc.pos + 1) : sc.narrow.value.getD k 0 = sc.value.getD k 0 := by
    show (sc.value.set (sc.pos + 1) 0).getD k 0 = _
    rw [List.getD_eq_getElem?_getD, List.getElem?_set_ne (by omega), ← List.getD_eq_getElem?_getD]
  have hnew : sc.narrow.value.getD (sc.pos + 1) 0 = 0 := by
    show (sc.value.set (sc.pos + 1) 0).getD (sc.pos + 1) 0 = 0
    rw [List.getD_eq_getElem?_getD, List.getElem?_set_self (by omega)]
    rfl
  have hnarrow : sc.narrow.remaining = subtreeNodes (8 - (sc.pos + 1)) +
      (siblingNodes (sc.pos + 1) sc.value + 10 * subtreeNodes (8 - (sc.pos + 1))) := by
    rw [Scanner.remaining, Scanner.narrow_pos, siblingNodes_succ (sc.pos + 1), siblingNodes_congr hbelow, hnew]
  rw [hnarrow, Scanner.remaining, subtreeNodes_down (show sc.pos < 8 by omega)]
  omega

/-- A carry leaves the nodes under the later siblings, or stops the scan. -/
theorem advCarry_remaining (n : Nat) (hn : n ≤ sc.value.length) :
    (advCarry n sc).stop = true ∨ (advCarry n sc).remaining ≤ siblingNodes n sc.value := by
  induction n generalizing sc with
  | zero => exact .inl rfl
  | succ n ih =>
    have hbelow (k : Nat) (hk : k < n) := (wildAfter_set_below (value := sc.value) (sc.value.getD n 0 + 1) hn hk).1
    have hset : (sc.value.set n (sc.value.getD n 0 + 1)).length = sc.value.length := List.length_set
    rw [advCarry]
    split
    · refine (ih (by dsimp only; rw [wildAfter_length (by omega), hset]; omega)).imp id fun h => h.trans ?_
      rw [siblingNodes_congr hbelow, siblingNodes_succ]
      exact Nat.le_add_right _ _
    · next hd =>
      refine .inr (Nat.le_of_eq (siblingNodes_raised hbelow ?_ (Nat.le_of_not_lt hd)))
      dsimp only
      rw [List.getD_eq_getElem?_getD, wildAfter_getElem? (by omega), if_pos (Nat.le_refl n), List.getElem?_set_self (by omega)]
      rfl

/-- SCAN.ADV stops the scan or leaves fewer nodes. -/
theorem Scanner.adv_remaining (hlen : sc.value.length = 16) (hpos : sc.pos ≤ 7) :
    sc.adv.stop = true ∨ sc.adv.remaining < sc.remaining := by
  have hbelow (k : Nat) (hk : k < sc.pos) :
      (sc.value.set sc.pos (sc.value.getD sc.pos 0 + 1)).getD k 0 = sc.value.getD k 0 := by
    rw [List.getD_eq_getElem?_getD, List.getElem?_set_ne (by omega), ← List.getD_eq_getElem?_getD]
  have hself : (sc.value.set sc.pos (sc.value.getD sc.pos 0 + 1)).getD sc.pos 0 = sc.value.getD sc.pos 0 + 1 := by
    rw [List.getD_eq_getElem?_getD, List.getElem?_set_self (by omega)]
    rfl
  have hnode := subtreeNodes_down (show sc.pos < 8 by omega)
  unfold Scanner.adv
  extract_lets d next
  split
  · next hd =>
    have hd : sc.value.getD sc.pos 0 + 1 < 10 := hd
    have hraised := siblingNodes_raised hbelow hself (by omega)
    have hremaining : next.remaining = siblingNodes (sc.pos + 1) sc.value := hraised
    right
    rw [hremaining, Scanner.remaining]
    omega
  · refine (advCarry_remaining (sc := next) sc.pos (by rw [List.length_set]; omega)).imp id fun h => ?_
    have hsame : siblingNodes sc.pos next.value = siblingNodes sc.pos sc.value := siblingNodes_congr hbelow
    have hsc : sc.remaining = subtreeNodes (8 - sc.pos) +
        (siblingNodes sc.pos sc.value + (10 - sc.value.getD sc.pos 0) * subtreeNodes (8 - sc.pos)) := by
      rw [Scanner.remaining, siblingNodes_succ]
    exact Nat.lt_of_le_of_lt h (by omega)

theorem Scanner.abort_remaining (sc : Scanner) : sc.abort.remaining = sc.remaining := by
  rw [Scanner.remaining, Scanner.abort_pos, Scanner.abort_value, Scanner.remaining]

end

/-- A move stops the scan or leaves fewer nodes. -/
theorem scanMove_remaining (o : ScanOutcome) {s : State} (hlen : s.scanner.value.length = 16) (hpos : s.scanner.pos ≤ 7) :
    (scanMove o s).scanner.stop = true ∨ (scanMove o s).scanner.remaining < s.scanner.remaining := by
  cases o with
  | noAnswer => exact Scanner.adv_remaining hlen hpos
  | one a =>
    obtain ⟨-, -, hfound⟩ := State.found_eq a s
    show (s.found a).scanner.adv.stop = true ∨ (s.found a).scanner.adv.remaining < _
    rw [hfound]
    split
    · exact Scanner.adv_remaining hlen hpos
    · exact Scanner.adv_remaining (sc := s.scanner.record a) hlen hpos
  | collision =>
    show (if _ then _ else _ : Scanner).stop = true ∨ (if _ then _ else _ : Scanner).remaining < _
    split
    · next hlt => exact .inr (Scanner.narrow_remaining hlen hlt)
    · exact Scanner.adv_remaining hlen hpos

/-- A step stops the scan or leaves fewer nodes. -/
theorem scanStep_remaining {s : State} (hlen : s.scanner.value.length = 16) (hpos : s.scanner.pos ≤ 7) :
    (scanStep s).scanner.stop = true ∨ (scanStep s).scanner.remaining < s.scanner.remaining := by
  obtain ⟨hpos', hvalue', -⟩ := (probe_probed (probeFrame s) s).nibbles
  have hmove := scanMove_remaining (probe (probeFrame s) s).1 (s := (probe (probeFrame s) s).2.scanMessage)
  rw [State.scanMessage_scanner, hpos', hvalue', Scanner.remaining, Scanner.remaining, hpos', hvalue'] at hmove
  rw [scanStep_eq, Scanner.remaining, Scanner.remaining]
  exact hmove hlen hpos

/-! ## The loop -/

/-- A turn of the loop of SCAN.RUN: a step, its answer, and the look at `abortReq` before the next one (R436). -/
def scanTurn (s : State) : State := (scanStep s).answerScanner.lookAtAbort

/-- The loop has ended: it is not to make another step. -/
def Scanner.ended (sc : Scanner) : Prop := sc.stop = true ∨ sc.abortReq = true

theorem Scanner.not_ended {sc : Scanner} : ¬sc.ended ↔ sc.stop = false ∧ sc.abortReq = false := by
  rw [Scanner.ended, not_or, Bool.not_eq_true, Bool.not_eq_true]

/-- What a turn keeps: LINK Idle on a wired session, and the shape of the scanner. -/
def State.scanReady (s : State) : Prop := s.kind = .wired ∧ s.link = .idle ∧ s.scanner.shaped

theorem State.Scanned.ready {s u : State} (h : State.Scanned s u) (hs : s.scanReady) : u.scanReady := by
  obtain ⟨hk, hl, hshaped⟩ := hs
  exact ⟨by rw [h.others]; exact hk, h.link hl, h.moved.shaped hshaped⟩

theorem State.lookAtAbort_ready {s : State} (hs : s.scanReady) : s.lookAtAbort.scanReady :=
  s.lookAtAbort_received.scanned.ready hs

/-- The loop of SCAN.RUN from `s` is `n` turns after the first look, each begun in a state that has not ended. -/
def LoopTurns (fuel n : Nat) (s : State) : Prop :=
  (∀ k, k < n → ¬(scanTurn^[k] s.lookAtAbort).scanner.ended ∧ (scanTurn^[k] s.lookAtAbort).scanReady) ∧
    (scanTurn^[n] s.lookAtAbort).scanner.ended ∧ ∃ y, scanLoop fuel s = (scanTurn^[n] s.lookAtAbort).setResp y

theorem LoopTurns.ended {fuel : Nat} {s : State} (h : s.lookAtAbort.scanner.ended) : LoopTurns fuel 0 s := by
  refine ⟨fun k hk => absurd hk (Nat.not_lt_zero k), h, s.lookAtAbort.resp, ?_⟩
  rw [scanLoop_ended h]
  rfl

theorem LoopTurns.turn {fuel n : Nat} {s : State} (hgoes : ¬s.lookAtAbort.scanner.ended) (hready : s.lookAtAbort.scanReady)
    (h : LoopTurns fuel n (scanStep s.lookAtAbort).answerScanner) : LoopTurns (fuel + 1) (n + 1) s := by
  obtain ⟨hbefore, hend, y, hloop⟩ := h
  obtain ⟨hnostop, hnoabort⟩ := Scanner.not_ended.mp hgoes
  refine ⟨fun k hk => ?_, hend, (scanStep s.lookAtAbort).resp, ?_⟩
  · cases k with
    | zero => exact ⟨hgoes, hready⟩
    | succ k => exact hbefore k (Nat.lt_of_succ_lt_succ hk)
  · have hanswer (t : State) : t = t.answerScanner.setResp t.resp := rfl
    have hover (t : State) (x z : Option Response) : (t.setResp x).setResp z = t.setResp z := rfl
    rw [scanLoop_step hnostop hnoabort, hanswer (scanStep s.lookAtAbort), scanLoop_setResp, hloop, hover,
      Function.iterate_succ_apply]
    rfl

/-- With enough fuel for the nodes left the loop of SCAN.RUN is turns, one after the other, until `stop` or `abortReq` is set. -/
theorem exists_loopTurns (fuel : Nat) {s : State} (hs : s.scanReady)
    (hfuel : s.scanner.stop = true ∨ s.scanner.remaining ≤ fuel) : ∃ n, n ≤ fuel ∧ LoopTurns fuel n s := by
  induction fuel generalizing s with
  | zero =>
    obtain ⟨-, -, -, hstop, -⟩ := s.lookAtAbort_received.scan
    have hsome := Scanner.remaining_pos hs.2.2.1
    exact ⟨0, Nat.le_refl 0, .ended (.inl (hstop.trans (hfuel.resolve_right (by omega))))⟩
  | succ m ih =>
    have hready := State.lookAtAbort_ready hs
    obtain ⟨hpos, hvalue, -, hstop, -⟩ := s.lookAtAbort_received.scan
    by_cases hended : s.lookAtAbort.scanner.ended
    · exact ⟨0, Nat.zero_le _, .ended hended⟩
    · have hleft := hfuel.resolve_left (by rw [← hstop, (Scanner.not_ended.mp hended).1]; decide)
      have hsame : s.lookAtAbort.scanner.remaining = s.scanner.remaining := by
        rw [Scanner.remaining, hpos, hvalue, Scanner.remaining]
      obtain ⟨n, hn, hturns⟩ := ih (s := (scanStep s.lookAtAbort).answerScanner)
        ((scanStep_scanned s.lookAtAbort).ready hready)
        ((scanStep_remaining hready.2.2.2 hready.2.2.1).imp id fun h => show (scanStep s.lookAtAbort).scanner.remaining ≤ m by omega)
      exact ⟨n + 1, Nat.succ_le_succ hn, .turn hended hready hturns⟩

theorem exec_scanStep (τ : Nat) (s : State) : exec (.scanStep τ) s = execScanStep τ s := rfl
theorem exec_scanRun (m : List Char) (τ : Nat) (s : State) : exec (.scanRun m τ) s = execScanRun m τ s := rfl

theorem execScanStep_of_idle {s : State} (hlink : needLink s = .ok ()) (τ : Nat) :
    execScanStep τ s = .next (scanStep s).answerScanner := by
  rw [execScanStep, hlink]
  rfl

theorem execScanRun_of_ok {s : State} {m : List Char} {sc : Scanner} (hlink : needLink s = .ok ())
    (h : scanInitOp s.params.scanInitZero m = .ok sc) (τ : Nat) :
    execScanRun m τ s = .next (scanLoop scanBound (s.setScanner sc)).endScan := by
  rw [execScanRun, needTransport_ok.mpr (needLink_ok.mp hlink).1, h, hlink]
  rfl

/-- Settles O57: `exists_loopTurns`, with `nodes_le` for the bound. -/
theorem scanRunTerminates : Obligations.ScanRunTerminates := by
  refine ⟨fun mask τ s hk hl hlen hmask looked hlooked => ?run, fun s => ?abort⟩
  case abort =>
    show Host.Outcome.next ((s.setScanner s.scanner.abort).respond .none) = _
    have habort := Scanner.abort_if s.scanner true
    rw [if_pos rfl, Bool.and_true] at habort
    rw [habort]
    rfl
  case run =>
    have hlook (x : State) : looked x = x.lookAtAbort := by rw [hlooked, State.lookAtAbort_eq]
    obtain ⟨flipped, -, hop⟩ := scanInitOp_of_mask s.params.scanInitZero hlen hmask
    generalize scannerOf s.params.scanInitZero (flipped.map maskCharValue) = sc at hop
    have hlink := needLink_ok.mpr ⟨hk, hl⟩
    have hshaped := scanInitOp_shaped hop
    obtain ⟨hfound, hstop, habort, hrunning⟩ := scanInitOp_fresh hop
    obtain ⟨n, hn, hbefore, hend, y, hloop⟩ := exists_loopTurns scanBound (s := (s.setScanner sc).answerScanner)
      ⟨hk, hl, hshaped⟩ (.inr (nodes_le sc.value hshaped.1))
    generalize hinit : (s.setScanner sc).answerScanner = init at *
    have hrun : (scanLoop scanBound (s.setScanner sc)).endScan = (scanTurn^[n] init.lookAtAbort).endScan := by
      have hs : s.setScanner sc = init.setResp s.resp := by rw [← hinit]; rfl
      have hanswer (t : State) (y : Option Response) : (t.setResp y).endScan = t.endScan := rfl
      rw [hs, scanLoop_setResp, hloop, hanswer, hanswer]
    have hmoved := (scanLoop_scanned scanBound (s.setScanner sc)).moved.ended
    have hfresh : sc.distinct := by rw [Scanner.distinct, hfound]; exact .nil
    refine ⟨n, init, fun k => scanTurn^[k] init.lookAtAbort, (scanTurn^[n] init.lookAtAbort).endScan, ?_,
      (hlook init).symm, hn, fun k hkn => ?_, ?_, hend, rfl, ?_, fun hhead => ?_⟩
    · rw [← hinit]
      exact execScanInit_of_ok hk hop
    · obtain ⟨hgoes, hwired, hidle, -⟩ := hbefore k hkn
      obtain ⟨hnostop, hnoabort⟩ := Scanner.not_ended.mp hgoes
      refine ⟨hnostop, hnoabort, _, execScanStep_of_idle (needLink_ok.mpr ⟨hwired, hidle⟩) τ, ?_⟩
      rw [hlook]
      exact Function.iterate_succ_apply' scanTurn k _
    · rw [← hrun]
      exact execScanRun_of_ok hlink hop τ
    · rw [← hrun]
      exact hmoved.distinct hfresh
    · have hlooked : init.lookAtAbort.scanner.abortReq = true := by
        rw [State.lookAtAbort_eq, ← hinit]
        show (sc.abortReq || (sc.running && s.tpIn.head? == some .abortBetween)) = true
        rw [hrunning, hhead]
        simp
      obtain rfl : n = 0 := by
        by_contra hne
        exact (hbefore 0 (by omega)).1 (.inr hlooked)
      rw [Function.iterate_zero_apply, State.lookAtAbort_eq, ← hinit]
      exact ⟨rfl, rfl, rfl, congrArg (fun l => some (Response.result (Value.found l))) hfound⟩

end Sys2Proof.Machine

/-! SCAN.STEP as the operations it is made of (48_scanner.md R434). -/

namespace Sys2Proof.Machine

/-! ## Packed nibbles -/

/-- Packing looks at the low four bits of a nibble only. -/
theorem packWild_bytes (value : List Nat) : packWild ((value.map (BitVec.ofNat 8)).map BitVec.toNat) = packWild value := by
  have hgetD (k : Nat) : ((value.map (BitVec.ofNat 8)).map BitVec.toNat).getD k 0 % 16 = value.getD k 0 % 16 := by
    simp only [List.getD_eq_getElem?_getD, List.getElem?_map]
    cases value[k]? with
    | none => rfl
    | some x =>
      show (BitVec.ofNat 8 x).toNat % 16 = x % 16
      rw [BitVec.toNat_ofNat]
      omega
  unfold packWild nibbles
  simp only [hgetD]

/-! ## LNK.READ -/

theorem exec_lnkRead (a : Byte) (τ : Nat) (s : State) : exec (.lnkRead a τ) s = execLnkRead a τ s := rfl

section
variable {s t : State} {a : Byte}

theorem execLnkRead_of_ok {v : Vds} (hlink : needLink s = .ok ()) (h : readExchange a s = (.ok v, t)) (τ : Nat) :
    execLnkRead a τ s = .next ((t.addVds v).respond (.vds t.vdss.length)) := by
  rw [execLnkRead, hlink, proceed_ok, h]

theorem execLnkRead_of_error {c : Cause} (hlink : needLink s = .ok ()) (h : readExchange a s = (.error c, t)) (τ : Nat) :
    execLnkRead a τ s = .next (t.raise c) := by
  rw [execLnkRead, hlink, proceed_ok, h]

end

/-! ## The step -/

section
variable {s q : State}

theorem scanStep_of_unanswered (h : (scanselExchange (probeFrame s) s).1 = false) :
    scanStep s = scanMove .noAnswer (scanselExchange (probeFrame s) s).2.scanMessage := by
  rw [scanStep_eq, probe_eq, if_neg (by rw [h]; decide)]

theorem scanStep_of_answered {r : Dec Vds} {t : State} (h : (scanselExchange (probeFrame s) s).1 = true)
    (hread : readExchange 0xFD#8 (scanselExchange (probeFrame s) s).2 = (r, t)) :
    scanStep s = scanMove (readOutcome r) t.scanMessage := by
  have hread : readExchange Config.selAddr (scanselExchange (probeFrame s) s).2 = (r, t) := hread
  rw [scanStep_eq, probe_eq, if_pos h, hread]

/-- The moves as requests, whatever stands on the CMD port. -/
theorem exec_scanAdv_setResp (hk : q.kind = .wired) (y : Option Response) :
    exec .scanAdv (q.setResp y) = .next (q.setScanner q.scanner.adv).answerScanner := by
  rw [exec_setResp, exec_scanAdv, execScanAdv_of_wired hk]

theorem exec_scanNarrow_setResp (hk : q.kind = .wired) (hpos : q.scanner.pos < 7) (y : Option Response) :
    exec .scanNarrow (q.setResp y) = .next (q.setScanner q.scanner.narrow).answerScanner := by
  rw [exec_setResp, exec_scanNarrow, execScanNarrow_of_lt hk hpos]

/-- A state after a step's exchanges as R434 has it at the move: the message emitted, its text drawn, no VDS kept. -/
def State.noted (s x : State) : State :=
  { x with
    vdss := s.vdss
    free := s.free + 1
    evts := if s.listener then s.evts ++ [.onScanMessage (Config.scanMessageText s.free)] else s.evts }

theorem State.Probed.noted_eq {t b : State} (h : State.Probed s t) (hb : b = { t with vdss := b.vdss, resp := b.resp }) :
    s.noted b = t.scanMessage.setResp b.resp := by
  rw [State.noted, hb, h.scanMessage_eq, ← h.vdss]
  rfl

/-- What the move sees of the state before the step. -/
theorem State.Probed.message {t : State} (h : State.Probed s t) (hk : s.kind = .wired) :
    t.scanMessage.kind = .wired ∧ t.scanMessage.scanner.pos = s.scanner.pos ∧ t.scanMessage.scanner.found = s.scanner.found := by
  obtain ⟨hpos, -, hfound⟩ := h.nibbles
  obtain ⟨evts, hmessage⟩ := State.scanMessage_eq t
  rw [hmessage]
  exact ⟨h.kind.trans hk, hpos, hfound⟩

/-- An address is found already exactly if one with its raw bytes is. -/
theorem found_any_iff {found : List SecondaryAddress} {x : SecondaryAddress} :
    found.any (fun e => saEq e x) = true ↔ ∃ e ∈ found, e.raw = x.raw := by
  simp only [List.any_eq_true, saEq, beq_iff_eq]

section
variable (hk : q.kind = .wired) (y : Option Response)
include hk

theorem exec_scanAdv_of_known {x : SecondaryAddress} (h : ∃ e ∈ q.scanner.found, e.raw = x.raw) :
    exec .scanAdv (q.setResp y) = .next (scanMove (.one x) q).answerScanner := by
  rw [exec_scanAdv_setResp hk, scanMove, State.found, if_pos (found_any_iff.mpr h)]

theorem exec_scanAdv_of_new {x : SecondaryAddress} {p : State} (h : ∀ e ∈ q.scanner.found, e.raw ≠ x.raw)
    (hp : p = { q with
      scanner := q.scanner.record x, evts := if q.listener then q.evts ++ [.onDeviceFound x] else q.evts }) :
    exec .scanAdv (p.setResp y) = .next (scanMove (.one x) q).answerScanner := by
  have hnew : ¬q.scanner.found.any (fun e => saEq e x) = true := fun hany => by
    obtain ⟨e, he, hraw⟩ := found_any_iff.mp hany
    exact h e he hraw
  have hpk : p.kind = .wired := by rw [hp]; exact hk
  rw [exec_scanAdv_setResp hpk, scanMove, State.found, if_neg hnew, State.emit_eq, hp]
  rfl

theorem exec_move_of_collision :
    (q.scanner.pos < 7 → exec .scanNarrow (q.setResp y) = .next (scanMove .collision q).answerScanner) ∧
    (7 ≤ q.scanner.pos → exec .scanAdv (q.setResp y) = .next (scanMove .collision q).answerScanner) := by
  rw [scanMove]
  refine ⟨fun hlt => ?_, fun hge => ?_⟩
  · rw [exec_scanNarrow_setResp hk hlt, if_pos (show _ < Config.scanMaxPos from hlt)]
  · rw [exec_scanAdv_setResp hk, if_neg (show ¬_ < Config.scanMaxPos from Nat.not_lt.mpr hge)]

end

end

/-- The outcome of a decoded answer (R434). -/
theorem readOutcome_ok_one {v : Vds} {x : SecondaryAddress} (hci : v.ci = 0x72#8) (hx : v.secondaryAddress = some x) :
    readOutcome (.ok v) = .one x := by
  rw [readOutcome, hx]
  exact if_pos hci

theorem readOutcome_ok_collision {v : Vds} (h : v.ci ≠ 0x72#8 ∨ v.secondaryAddress = none) :
    readOutcome (.ok v) = .collision := by
  rw [readOutcome]
  split
  · next x hx => exact if_neg (h.resolve_right (by rw [hx]; exact nofun))
  · rfl

/-- Settles O56: `scanStep_of_unanswered` and `scanStep_of_answered`, by the outcome of the read. -/
theorem scanStepProbesOnce : Obligations.ScanStepProbesOnce := by
  intro τ s hk hl
  have hlink := needLink_ok.mpr ⟨hk, hl⟩
  have hprobed := scanselExchange_probed (probeFrame s) s
  refine ⟨(scanStep s).answerScanner, (scanselExchange (probeFrame s) s).2.respond (.bit (scanselExchange (probeFrame s) s).1),
    packWild s.scanner.value, execScanStep_of_idle hlink τ, ?pack, ?select, ?moves⟩
  case pack => exact congrArg (fun w => Host.Outcome.next (s.respond (.bytes w))) (packWild_bytes s.scanner.value)
  case select =>
    rw [exec_lnkScansel, execLnkScansel_of_idle hlink (by rw [packWild_length]; decide)]
    rfl
  case moves =>
    rintro _ rfl
    refine ⟨fun hresp => ?unanswered, fun hresp => ?answered⟩
    case unanswered =>
      have hfalse : (scanselExchange (probeFrame s) s).1 = false := by simpa using hresp
      have hmove := exec_scanAdv_setResp (hprobed.message hk).1
      rw [scanStep_of_unanswered hfalse]
      exact (congrArg (exec .scanAdv) (hprobed.noted_eq rfl)).trans (hmove _)
    case answered =>
      have htrue : (scanselExchange (probeFrame s) s).1 = true := by simpa using hresp
      have hreadlink := needLink_ok.mpr ⟨hprobed.kind.trans hk, hprobed.link⟩
      have hread := readExchange_probed 0xFD#8 (scanselExchange (probeFrame s) s).2
      have hexec (v : Value) : exec (.lnkRead 0xFD#8 τ) ((scanselExchange (probeFrame s) s).2.respond v) =
          execLnkRead 0xFD#8 τ (scanselExchange (probeFrame s) s).2 := exec_setResp _ _ _
      rw [hexec]
      generalize hx : readExchange 0xFD#8 (scanselExchange (probeFrame s) s).2 = r at hread
      obtain ⟨r, t⟩ := r
      have hprobed' : State.Probed s t := hprobed.trans hread
      obtain ⟨hkind, hpos, hfound⟩ := hprobed'.message hk
      have hcollision (b : State) (hb : b = { t with vdss := b.vdss, resp := b.resp }) (ho : readOutcome r = .collision) :
          (s.scanner.pos < 7 → exec .scanNarrow (s.noted b) = .next (scanStep s).answerScanner) ∧
          (7 ≤ s.scanner.pos → exec .scanAdv (s.noted b) = .next (scanStep s).answerScanner) := by
        rw [hprobed'.noted_eq hb, scanStep_of_answered htrue hx, ho, ← hpos]
        exact exec_move_of_collision hkind _
      match r, hx, hcollision with
      | .error c, hx, hcollision =>
        refine ⟨_, execLnkRead_of_error hreadlink hx τ, fun v x hv => ?_, fun _ => hcollision _ rfl rfl⟩
        have hv : t.vdss = s.vdss ++ [v] := hv
        rw [hprobed'.vdss] at hv
        simp at hv
      | .ok v, hx, hcollision =>
        have hmade : ((t.addVds v).respond (.vds t.vdss.length)).vdss = s.vdss ++ [v] := by
          rw [← hprobed'.vdss]
          rfl
        refine ⟨_, execLnkRead_of_ok hreadlink hx τ, fun w x hw hci haddr => ⟨fun hknown => ?_, fun hnew => ?_⟩, fun h => ?_⟩
        · obtain rfl : v = w := by simpa using hmade.symm.trans hw
          rw [scanStep_of_answered htrue hx, readOutcome_ok_one hci haddr]
          exact (congrArg (exec .scanAdv) (hprobed'.noted_eq rfl)).trans
            (exec_scanAdv_of_known hkind _ (by rw [hfound]; exact hknown))
        · obtain rfl : v = w := by simpa using hmade.symm.trans hw
          rw [scanStep_of_answered htrue hx, readOutcome_ok_one hci haddr]
          refine (congrArg (exec .scanAdv) ?_).trans (exec_scanAdv_of_new (q := t.scanMessage) (p := { t.scanMessage with
            scanner := t.scanMessage.scanner.record x
            evts := if t.scanMessage.listener then t.scanMessage.evts ++ [.onDeviceFound x] else t.scanMessage.evts })
            hkind (some (.result (.vds t.vdss.length))) (by rw [hfound]; exact hnew) rfl)
          have hscanner : t.scanMessage.scanner.record x = { t.scanner with found := s.scanner.found ++ [x] } := by
            rw [Scanner.record, hfound, State.scanMessage_scanner]
          rw [hscanner, hprobed'.scanMessage_eq]
          dsimp only
          have hevts (l : Bool) (es es' es'' : List Event) :
              (if l then (if l then es else es') ++ es'' else if l then es else es') =
                if l then (if l then es else es') ++ es'' else es' := by cases l <;> rfl
          rw [← hprobed'.listener, hevts, ← hprobed'.vdss]
          rfl
        · refine hcollision _ rfl (readOutcome_ok_collision ?_)
          obtain hsame | ⟨w, hw, hcase⟩ := h
          · rw [hmade] at hsame
            simp at hsame
          · obtain rfl : v = w := by simpa using hmade.symm.trans hw
            exact hcase

end Sys2Proof.Machine

/-! The bytes of a long frame, the sum they are checked with (45_wired_frame.md R330, R332), and the frames read from a
buffer (R334, R335). -/

namespace Sys2Proof.Machine

/-! ## Answers compared -/

section
variable {s t : State}

theorem next_respond_inj {v w : Value} (h : (.next (s.respond v) : Out) = .next (t.respond w)) : v = w :=
  Response.result.inj (Option.some.inj (congrArg State.resp (Host.Outcome.next.inj h)))

theorem next_raise_inj {c d : Cause} (h : (.next (s.raise c) : Out) = .next (t.raise d)) : c = d :=
  Response.exception.inj (Option.some.inj (congrArg State.resp (Host.Outcome.next.inj h)))

theorem next_respond_ne_raise (v : Value) (c : Cause) : (.next (s.respond v) : Out) ≠ .next (t.raise c) :=
  fun h => nomatch Option.some.inj (congrArg State.resp (Host.Outcome.next.inj h))

end

/-! ## The sum -/

theorem byteSum_append (x y : Bytes) : byteSum (x ++ y) = byteSum x + byteSum y := by
  simp [byteSum_eq_sum]

theorem checksum_append (x y : Bytes) : checksum (x ++ y) = checksum x + checksum y := by
  simp [checksum, byteSum_append, BitVec.ofNat_add]

theorem checksum_cons (b : Byte) (x : Bytes) : checksum (b :: x) = b + checksum x := by
  simp [checksum, byteSum, BitVec.ofNat_add]

/-- One byte of a sum is what the others leave of it. -/
theorem checksum_append_cons_inj {x y : Bytes} {u v : Byte} :
    checksum (x ++ u :: y) = checksum (x ++ v :: y) ↔ u = v := by
  simp [checksum_append, checksum_cons]

/-- A byte written into the string is found unless it stood there. -/
theorem getElem?_of_checksum_set {x : Bytes} {k : Nat} {b : Byte} (hk : k < x.length)
    (h : checksum (x.set k b) = checksum x) : x[k]? = some b := by
  rw [List.set_eq_take_append_cons_drop, if_pos hk] at h
  nth_rw 3 [← List.take_append_drop k x] at h
  rw [List.drop_eq_getElem_cons hk, checksum_append_cons_inj] at h
  rw [List.getElem?_eq_getElem hk, h]

theorem byteAt_set_of_ne {x : Bytes} {k j : Nat} (h : k ≠ j) (b : Byte) : byteAt (x.set k b) j = byteAt x j := by
  simp [byteAt, List.getD_eq_getElem?_getD, List.getElem?_set_ne h]

/-! ## The fields of a long frame -/

/-- The bytes of a long frame by their places: what is received need not agree with its checks (R36). -/
structure LongFields where
  (l l2 start2 control address ci : Byte)
  data : Bytes
  (sum stop : Byte)

namespace LongFields

variable (x : LongFields)

def bytes : Bytes := [0x68#8, x.l, x.l2, x.start2, x.control, x.address, x.ci] ++ x.data ++ [x.sum, x.stop]

def flags : IntegrityFlags where
  lenOk := x.l2 == x.l
  start2Ok := x.start2 == 0x68#8
  cksOk := x.sum == checksum ([x.control, x.address, x.ci] ++ x.data)
  stopOk := x.stop == 0x16#8

def frame : LongFrame where
  l := x.l
  control := x.control
  address := x.address
  ci := x.ci
  payload := x.data
  checksum := x.sum
  bytes := x.bytes
  flags := x.flags

/-- The length byte counts control byte, address, CI and data. -/
def Sized : Prop := x.l.toNat = 3 + x.data.length

/-- The fields of the frame that ENC.LONG builds. -/
def encoded (c a ci : Byte) (data : Bytes) : LongFields where
  l := BitVec.ofNat 8 (3 + data.length)
  l2 := BitVec.ofNat 8 (3 + data.length)
  start2 := 0x68#8
  control := c
  address := a
  ci := ci
  data := data
  sum := checksum (c :: a :: ci :: data)
  stop := 0x16#8

variable {x}

theorem bytes_eq_cons : x.bytes =
    0x68#8 :: x.l :: ([x.l2, x.start2, x.control, x.address, x.ci] ++ x.data ++ [x.sum, x.stop]) := rfl

theorem length_bytes (h : x.Sized) : x.bytes.length = x.l.toNat + 6 := by
  have hdata : x.l.toNat = 3 + x.data.length := h
  simp only [bytes, List.length_append, List.length_cons, List.length_nil]
  omega

/-- The bytes after the data stand after the seven of the start and those of the data. -/
theorem byteAt_bytes_tail (h : x.Sized) (j : Nat) : byteAt x.bytes (x.l.toNat + 4 + j) = byteAt [x.sum, x.stop] j := by
  have hfront : ([0x68#8, x.l, x.l2, x.start2, x.control, x.address, x.ci] ++ x.data).length = x.l.toNat + 4 := by
    rw [h]
    simp only [List.length_append, List.length_cons, List.length_nil]
    omega
  rw [byteAt, byteAt, bytes, List.getD_append_right _ _ _ _ (by omega), hfront, Nat.add_sub_cancel_left]

/-- The bytes the checksum covers. -/
theorem take_drop_bytes (h : x.Sized) :
    (x.bytes.drop 4).take x.l.toNat = [x.control, x.address, x.ci] ++ x.data := by
  have hsplit : x.bytes.drop 4 = ([x.control, x.address, x.ci] ++ x.data) ++ [x.sum, x.stop] := rfl
  rw [hsplit, List.take_left' (by rw [h, List.length_append]; rfl)]

theorem integrityFlags_bytes (h : x.Sized) : integrityFlags x.l x.bytes = x.flags := by
  rw [integrityFlags, take_drop_bytes h, byteAt_bytes_tail h 0, show x.l.toNat + 5 = x.l.toNat + 4 + 1 from rfl,
    byteAt_bytes_tail h 1]
  rfl

/-- The decoder finds the fields again (R334). -/
theorem longFrameOf_bytes (h : x.Sized) : longFrameOf x.l x.bytes = x.frame := by
  have hpayload : (x.bytes.drop 7).take (x.l.toNat - 3) = x.data := by
    have hsplit : x.bytes.drop 7 = x.data ++ [x.sum, x.stop] := rfl
    rw [hsplit, List.take_left' (by rw [h]; omega)]
  rw [longFrameOf, hpayload, integrityFlags_bytes h, byteAt_bytes_tail h 0]
  rfl

theorem flags_all_iff : x.flags.all = true ↔
    x.l2 = x.l ∧ x.start2 = 0x68#8 ∧ x.sum = checksum ([x.control, x.address, x.ci] ++ x.data) ∧ x.stop = 0x16#8 := by
  simp [flags, IntegrityFlags.all, and_assoc]

/-- The checks of a frame whose flags are set, or are not enforced (R334). -/
theorem check_ok (h : x.Sized) {enforce : Bool} (hflags : enforce = false ∨ x.flags.all = true) :
    checkLongFrame enforce x.l x.bytes = .ok x.frame := by
  have hmin : ¬x.l.toNat < 3 := by rw [h]; omega
  rw [checkLongFrame, if_neg hmin, integrityFlags_bytes h, longFrameOf_bytes h]
  obtain rfl | hall := hflags
  · rfl
  · simp [hall]

theorem check_error (h : x.Sized) (hflags : x.flags.all = false) :
    checkLongFrame true x.l x.bytes = .error .malformedFrame := by
  have hmin : ¬x.l.toNat < 3 := by rw [h]; omega
  rw [checkLongFrame, if_neg hmin, integrityFlags_bytes h, hflags]
  rfl

/-! ### What ENC.LONG builds -/

theorem bytes_encoded (c a ci : Byte) (data : Bytes) : (encoded c a ci data).bytes = encLongFrame c a ci data := rfl

theorem encoded_sized {c a ci : Byte} {data : Bytes} (h : data.length ≤ 252) : (encoded c a ci data).Sized := by
  rw [Sized, encoded, BitVec.toNat_ofNat]
  exact Nat.mod_eq_of_lt (by omega)

theorem flags_encoded (c a ci : Byte) (data : Bytes) : (encoded c a ci data).flags.all = true :=
  flags_all_iff.mpr ⟨rfl, rfl, rfl, rfl⟩

/-- A frame with every check right is one ENC.LONG builds. -/
theorem bytes_eq_encLongFrame (h : x.Sized) (hflags : x.flags.all = true) :
    x.bytes = encLongFrame x.control x.address x.ci x.data := by
  obtain ⟨hlen, hstart, hsum, hstop⟩ := flags_all_iff.mp hflags
  have hl : BitVec.ofNat 8 (3 + x.data.length) = x.l := by rw [← h, BitVec.ofNat_toNat, BitVec.setWidth_eq]
  rw [bytes, encLongFrame, hl, hlen, hstart, hsum, hstop]
  rfl

/-- Bytes as many as their length byte asks for, at least three, are those of some fields. -/
theorem exists_of_length {f : Bytes} (hlead : byteAt f 0 = 0x68#8) (hlen : f.length = (byteAt f 1).toNat + 6)
    (hmin : 3 ≤ (byteAt f 1).toNat) : ∃ x : LongFields, x.bytes = f ∧ x.l = byteAt f 1 ∧ x.Sized := by
  match f, hlead, hlen, hmin with
  | [], _, hlen, _ => exact absurd hlen (by simp)
  | [_], _, hlen, _ => exact absurd hlen (by simp)
  | b :: l :: rest, hlead, hlen, hmin =>
    obtain rfl : b = 0x68#8 := hlead
    have hrest : rest.length = l.toNat + 4 := Nat.add_right_cancel (m := 2) hlen
    have hthree : 3 ≤ l.toNat := hmin
    have htail : (rest.drop (l.toNat + 2)).length = 2 := by rw [List.length_drop]; omega
    obtain ⟨k, e, hke⟩ := List.length_eq_two.mp htail
    match rest, hrest, hke with
    | l2 :: z :: c :: a :: ci :: more, hrest, hke =>
      have hmore : more.drop (l.toNat - 3) = [k, e] := by
        rw [← hke, show l.toNat + 2 = l.toNat - 3 + 5 by omega]
        rfl
      refine ⟨⟨l, l2, z, c, a, ci, more.take (l.toNat - 3), k, e⟩, ?_, rfl, ?_⟩
      · rw [bytes, List.append_assoc, ← hmore, List.take_append_drop]
        rfl
      · show l.toNat = 3 + (more.take (l.toNat - 3)).length
        simp only [List.length_cons] at hrest
        rw [List.length_take]
        omega
    | [], hrest, _ | [_], hrest, _ | [_, _], hrest, _ | [_, _, _], hrest, _ | [_, _, _, _], hrest, _ =>
      simp only [List.length_cons, List.length_nil] at hrest
      omega

end LongFields

/-! ## CHK.VERIFY (R332) -/

theorem chkVerify_singleton (b : Byte) : chkVerify [b] = true ↔ b = 0xE5#8 := by
  simp [chkVerify, byteAt]

theorem chkVerify_of_short_lead {f : Bytes} (hlen : f.length ≠ 1) (hlead : byteAt f 0 = 0x10#8) :
    chkVerify f = true ↔ ∃ c a, f = [0x10#8, c, a, c + a, 0x16#8] := by
  rw [chkVerify, if_neg hlen, if_pos hlead]
  constructor
  · intro h
    simp only [Bool.and_eq_true, beq_iff_eq] at h
    obtain ⟨⟨hfive, hsum⟩, hstop⟩ := h
    match f, hfive with
    | [b, c, a, k, e], _ =>
      obtain rfl : b = 0x10#8 := hlead
      obtain rfl : k = checksum [c, a] := hsum
      obtain rfl : e = 0x16#8 := hstop
      exact ⟨c, a, by rw [checksum_pair]⟩
  · rintro ⟨c, a, rfl⟩
    simp [byteAt, checksum_pair]

theorem chkVerify_of_long_lead {f : Bytes} (hlen : f.length ≠ 1) (hlead : byteAt f 0 = 0x68#8) :
    chkVerify f = true ↔
      (2 ≤ f.length ∧ f.length = (byteAt f 1).toNat + 6 ∧ 3 ≤ (byteAt f 1).toNat) ∧
        (integrityFlags (byteAt f 1) f).all = true := by
  have hshort : ¬byteAt f 0 = 0x10#8 := by rw [hlead]; decide
  rw [chkVerify, if_neg hlen, if_neg hshort]
  split
  case isTrue h => exact ⟨fun hall => ⟨h.2, hall⟩, fun hall => hall.2⟩
  case isFalse h => exact ⟨nofun, fun hall => absurd ⟨hlead, hall.1⟩ h⟩

theorem chkVerify_of_other_lead {f : Bytes} (hlen : f.length ≠ 1) (hshort : byteAt f 0 ≠ 0x10#8)
    (hlong : byteAt f 0 ≠ 0x68#8) : chkVerify f = false := by
  rw [chkVerify, if_neg hlen, if_neg hshort, if_neg fun h => hlong h.1]

theorem chkVerify_encLongFrame {data : Bytes} (h : data.length ≤ 252) (c a ci : Byte) :
    chkVerify (encLongFrame c a ci data) = true := by
  have hsized := LongFields.encoded_sized (c := c) (a := a) (ci := ci) h
  have hlen := LongFields.length_bytes hsized
  have hl : 3 ≤ (LongFields.encoded c a ci data).l.toNat := by rw [hsized]; omega
  refine (chkVerify_of_long_lead (by rw [encLongFrame_length]; omega) rfl).mpr
    ⟨⟨by rw [encLongFrame_length]; omega, hlen, hl⟩, ?_⟩
  exact (congrArg _ (LongFields.integrityFlags_bytes hsized)).trans (LongFields.flags_encoded c a ci data)

/-- A string that leads as a long frame passes exactly if ENC.LONG builds it. -/
theorem chkVerify_long_iff {f : Bytes} (hlen : f.length ≠ 1) (hlead : byteAt f 0 = 0x68#8) :
    chkVerify f = true ↔ ∃ c a ci data, data.length ≤ 252 ∧ f = encLongFrame c a ci data := by
  constructor
  · intro h
    obtain ⟨⟨-, hsize, hmin⟩, hall⟩ := (chkVerify_of_long_lead hlen hlead).mp h
    obtain ⟨x, hbytes, hl, hsized⟩ := LongFields.exists_of_length hlead hsize hmin
    rw [← hl, ← hbytes, LongFields.integrityFlags_bytes hsized] at hall
    have hmax : x.data.length ≤ 252 := by
      have hdata : x.l.toNat = 3 + x.data.length := hsized
      have hbyte := x.l.isLt
      omega
    exact ⟨_, _, _, x.data, hmax, hbytes.symm.trans (LongFields.bytes_eq_encLongFrame hsized hall)⟩
  · rintro ⟨c, a, ci, data, hmax, rfl⟩
    exact chkVerify_encLongFrame hmax c a ci

/-- The strings that pass (R332), by their length and lead byte. -/
theorem chkVerify_iff (f : Bytes) :
    chkVerify f = true ↔ f = [0xE5#8] ∨ (∃ c a, f = [0x10#8, c, a, c + a, 0x16#8]) ∨
      ∃ c a ci data, data.length ≤ 252 ∧ f = encLongFrame c a ci data := by
  by_cases hone : f.length = 1
  · obtain ⟨b, rfl⟩ := List.length_eq_one_iff.mp hone
    rw [chkVerify_singleton]
    refine ⟨fun h => .inl (by rw [h]), ?_⟩
    rintro (h | ⟨c, a, h⟩ | ⟨c, a, ci, data, -, h⟩)
    · exact List.head_eq_of_cons_eq h
    · cases h
    · cases h
  by_cases hshort : byteAt f 0 = 0x10#8
  · rw [chkVerify_of_short_lead hone hshort]
    refine ⟨fun h => .inr (.inl h), ?_⟩
    rintro (rfl | h | ⟨c, a, ci, data, -, rfl⟩)
    · exact absurd hshort (by decide)
    · exact h
    · exact absurd hshort (by show 0x68#8 ≠ 0x10#8; decide)
  by_cases hlong : byteAt f 0 = 0x68#8
  · rw [chkVerify_long_iff hone hlong]
    refine ⟨fun h => .inr (.inr h), ?_⟩
    rintro (rfl | ⟨c, a, rfl⟩ | h)
    · exact absurd hlong (by decide)
    · exact absurd rfl hshort
    · exact h
  · rw [chkVerify_of_other_lead hone hshort hlong]
    refine ⟨nofun, ?_⟩
    rintro (rfl | ⟨c, a, rfl⟩ | ⟨c, a, ci, data, -, rfl⟩)
    · exact absurd rfl hone
    · exact absurd rfl hshort
    · exact absurd rfl hlong

/-- A byte that the checksum covers cannot change alone. -/
theorem chkVerify_set {c a ci b : Byte} {data : Bytes} {k : Nat} (hmax : data.length ≤ 252) (hfirst : 4 ≤ k)
    (hlast : k < data.length + 7) (hb : (encLongFrame c a ci data)[k]? ≠ some b) :
    chkVerify ((encLongFrame c a ci data).set k b) = false := by
  let f := encLongFrame c a ci data
  have hlen : f.length = data.length + 9 := encLongFrame_length c a ci data
  have hsized := LongFields.encoded_sized (c := c) (a := a) (ci := ci) hmax
  have hl : (byteAt f 1).toNat = 3 + data.length := hsized
  have keeps {j : Nat} (hj : k ≠ j) : byteAt (f.set k b) j = byteAt f j := byteAt_set_of_ne hj b
  refine Bool.eq_false_iff.mpr fun hpass => hb ?_
  obtain ⟨-, hall⟩ := (chkVerify_of_long_lead (by rw [List.length_set, hlen]; omega) (keeps (by omega))).mp hpass
  obtain ⟨-, hall'⟩ := (chkVerify_of_long_lead (f := f) (by omega) rfl).mp (chkVerify_encLongFrame hmax c a ci)
  simp only [integrityFlags, IntegrityFlags.all, Bool.and_eq_true, beq_iff_eq] at hall hall'
  obtain ⟨⟨-, hsum⟩, -⟩ := hall
  obtain ⟨⟨-, hsum'⟩, -⟩ := hall'
  rw [keeps (j := 1) (by omega), keeps (by omega), hsum', hl, List.drop_set, if_neg (by omega), List.take_set] at hsum
  have hfound := getElem?_of_checksum_set (by simp only [List.length_take, List.length_drop]; omega) hsum.symm
  rw [List.getElem?_take_of_lt (by omega), List.getElem?_drop, Nat.add_sub_cancel' hfirst] at hfound
  exact hfound

theorem exec_chkSum (bs : Bytes) (s : State) : exec (.chkSum bs) s = execChkSum bs s := rfl
theorem exec_chkVerify (f : Bytes) (s : State) : exec (.chkVerify f) s = execChkVerify f s := rfl

/-- Settles O42: the sum is additive, and what CHK.VERIFY passes is `chkVerify_iff`. -/
theorem checksumsAreVerified : Obligations.ChecksumsAreVerified := by
  refine ⟨fun x y u v s => ⟨?sum, checksum_append x y, rfl, checksum_append_cons_inj⟩,
    fun f s => ⟨chkVerify f, exec_chkVerify f s, ?verify⟩, ?corrupt⟩
  case sum => rw [exec_chkSum, execChkSum, checksum, byteSum_eq_sum]
  case verify =>
    have builds {c a ci : Byte} {data : Bytes} (h : data.length ≤ 252) :
        exec (.encLong c a ci data) s = .next (s.respond (.bytes f)) ↔ f = encLongFrame c a ci data := by
      rw [exec_encLong, execEncLong_of_le h]
      exact ⟨fun h => (Value.bytes.inj (next_respond_inj h)).symm, fun h => by rw [h]⟩
    rw [chkVerify_iff]
    exact or_congr_right (or_congr_right (exists₄_congr fun c a ci data => and_congr_right fun h => (builds h).symm))
  case corrupt =>
    rintro c a ci b data f k s hmax rfl hfirst hlast hb
    rw [exec_chkVerify, execChkVerify, chkVerify_set hmax hfirst hlast hb]

end Sys2Proof.Machine

/-! Frames read from a buffer (45_wired_frame.md R334, R335; 30_encoding.md R92, R93). -/

namespace Sys2Proof.Machine

theorem exec_decFrame (buf : Bytes) (s : State) : exec (.decFrame buf) s = execDecFrame buf s := rfl
theorem exec_decShort (buf : Bytes) (s : State) : exec (.decShort buf) s = execDecShort buf s := rfl
theorem exec_fLong (buf : Bytes) (s : State) : exec (.fLong buf) s = execFLong buf s := rfl

/-- F-SHORT has the layout of DEC.SHORT. -/
theorem exec_fShort (buf : Bytes) (s : State) : exec (.fShort buf) s = exec (.decShort buf) s := rfl

/-- F-LONG of what leads as a long frame is DEC.FRAME. -/
theorem exec_fLong_of_lead (w : Bytes) (s : State) : exec (.fLong (0x68#8 :: w)) s = exec (.decFrame (0x68#8 :: w)) s :=
  rfl

section
variable {buf : Bytes} {s : State}

theorem execDecFrame_of_ok {fr : WiredFrame} {n : Nat} (h : decFrameOf s.params.rxEnforceIntegrity buf = .ok (fr, n)) :
    execDecFrame buf s = .next (s.respond (.frame fr n)) := by
  rw [execDecFrame, h]
  rfl

theorem execDecFrame_of_error {c : Cause} (h : decFrameOf s.params.rxEnforceIntegrity buf = .error c) :
    execDecFrame buf s = .next (s.raise c) := by
  rw [execDecFrame, h]
  rfl

theorem execFLong_of_error {c : Cause} (h : readLongFormat s.params.rxEnforceIntegrity buf = .error c) :
    execFLong buf s = .next (s.raise c) := by
  rw [execFLong, h]
  rfl

theorem execDecShort_of_ok {fr : ShortFrame} (h : decShortOf buf = .ok fr) :
    execDecShort buf s = .next (s.respond (.shortFrame fr)) := by
  rw [execDecShort, h]
  rfl

theorem execDecShort_of_error {c : Cause} (h : decShortOf buf = .error c) :
    execDecShort buf s = .next (s.raise c) := by
  rw [execDecShort, h]
  rfl

end

/-! ## The reader of long frames -/

/-- After the lead byte and the length byte, the whole frame is read and then checked (R334). -/
theorem decFrameOf_long (enforce : Bool) (l : Byte) (w : Bytes) :
    decFrameOf enforce (0x68#8 :: l :: w) = (do
      let (f, _) ← memRead (l.toNat + 6) (0x68#8 :: l :: w)
      let fr ← checkLongFrame enforce l f
      .ok (.long fr, l.toNat + 6)) := rfl

theorem decFrameOf_cut (enforce : Bool) {l : Byte} {w : Bytes} (h : w.length < l.toNat + 4) :
    decFrameOf enforce (0x68#8 :: l :: w) = .error .truncatedBuffer := by
  rw [decFrameOf_long, memRead_error.mpr ⟨Nat.add_lt_add_right h 2, rfl⟩]
  rfl

theorem checkLongFrame_of_lt (enforce : Bool) {l : Byte} (h : l.toNat < 3) (f : Bytes) :
    checkLongFrame enforce l f = .error .malformedFrame := if_pos h

theorem decFrameOf_small (enforce : Bool) {l : Byte} {w : Bytes} (hall : l.toNat + 4 ≤ w.length) (h : l.toNat < 3) :
    decFrameOf enforce (0x68#8 :: l :: w) = .error .malformedFrame := by
  rw [decFrameOf_long, memRead_take (Nat.add_le_add_right hall 2)]
  simp only [Dec.bind_error]
  exact .inr ⟨_, rfl, .inl (checkLongFrame_of_lt enforce h _)⟩

/-- Of the bytes of some fields, whatever follows them, the reader makes what the checks make of them. -/
theorem decFrameOf_bytes (enforce : Bool) {x : LongFields} (h : x.Sized) (back : Bytes) :
    decFrameOf enforce (x.bytes ++ back) = (do
      let fr ← checkLongFrame enforce x.l x.bytes
      .ok (.long fr, x.l.toNat + 6)) := by
  have hread : memRead (x.l.toNat + 6) (x.bytes ++ back) = .ok (x.bytes, back) := by
    rw [← LongFields.length_bytes h, memRead_append]
  rw [LongFields.bytes_eq_cons, List.cons_append, List.cons_append, decFrameOf_long, ← List.cons_append,
    ← List.cons_append, ← LongFields.bytes_eq_cons, hread]
  rfl

theorem decFrameOf_unexpected (enforce : Bool) {b : Byte} (hchar : b ≠ 0xE5#8) (hlong : b ≠ 0x68#8) (w : Bytes) :
    decFrameOf enforce (b :: w) = .error .unexpectedByte := by
  simp [decFrameOf, memReadByte, hchar, hlong, bind, Except.bind]

theorem readLongFormat_unexpected (enforce : Bool) {b : Byte} (hlong : b ≠ 0x68#8) (w : Bytes) :
    readLongFormat enforce (b :: w) = .error .unexpectedByte := by
  simp [readLongFormat, memReadByte, hlong, bind, Except.bind]

/-! ## The reader of short frames -/

theorem decShortOf_bytes (c a k e : Byte) (back : Bytes) :
    decShortOf ([0x10#8, c, a, k, e] ++ back) =
      .ok { control := c, address := a, checksum := k, cksOk := k == c + a, stopOk := e == 0x16#8 } := by
  rw [decShortOf, show (5 : Nat) = [0x10#8, c, a, k, e].length from rfl, memRead_append, ← checksum_pair]
  rfl

theorem decShortOf_cut {buf : Bytes} (h : buf.length < 5) : decShortOf buf = .error .truncatedBuffer := by
  rw [decShortOf, memRead_error.mpr ⟨h, rfl⟩]
  rfl

theorem decShortOf_unexpected {buf : Bytes} (hlen : 5 ≤ buf.length) (hlead : byteAt buf 0 ≠ 0x10#8) :
    decShortOf buf = .error .unexpectedByte := by
  have hlead' : byteAt (buf.take 5) 0 ≠ 0x10#8 := by
    match buf, hlen, hlead with
    | _ :: _, _, hlead => exact hlead
  rw [decShortOf, memRead_take hlen]
  exact if_pos hlead'

/-- A received frame passes its checks if none fails, or if they are not enforced (decision D28). -/
theorem IntegrityFlags.all_iff {g : IntegrityFlags} :
    g.all = true ↔ g = { lenOk := true, start2Ok := true, cksOk := true, stopOk := true } := by
  cases g
  simp [IntegrityFlags.all, and_assoc]

/-- Settles O43: by the lead byte; a long frame is its fields, and the flags decide whether it is rejected. -/
theorem framesAreReadBack : Obligations.FramesAreReadBack := by
  intro back s
  have same {w : Bytes} {i : Instr} (hi : i = .decFrame (0x68#8 :: w) ∨ i = .fLong (0x68#8 :: w)) :
      exec i s = execDecFrame (0x68#8 :: w) s := by
    obtain rfl | rfl := hi
    · exact exec_decFrame _ s
    · rw [exec_fLong_of_lead, exec_decFrame]
  have short {i : Instr} {w : Bytes} (hi : i = .decShort w ∨ i = .fShort w) : exec i s = execDecShort w s := by
    obtain rfl | rfl := hi
    · exact exec_decShort _ s
    · rw [exec_fShort, exec_decShort]
  refine ⟨rfl, ?long, fun c a k e i hi => ?short, fun b hlong => ⟨?format, fun hchar => ?lead⟩,
    fun l i hi => ⟨fun hcut => ?cut, fun hall hsmall => ?small⟩, ?none,
    fun i hi => ⟨fun hcut => ?shortCut, fun hlen hlead => ?shortLead⟩⟩
  case long =>
    rintro l l2 z c a ci k e data hl i g hi rfl
    let x : LongFields := ⟨l, l2, z, c, a, ci, data, k, e⟩
    have hsized : x.Sized := hl
    have hi' : exec i s = execDecFrame (x.bytes ++ back) s := same hi
    rw [hi']
    refine ⟨fun hok => execDecFrame_of_ok ?_, fun henforce hbad => execDecFrame_of_error ?_⟩
    · have hflags : s.params.rxEnforceIntegrity = false ∨ x.flags.all = true :=
        hok.imp_right fun h => IntegrityFlags.all_iff.mpr h
      rw [decFrameOf_bytes _ hsized, LongFields.check_ok hsized hflags]
      rfl
    · have hflags : x.flags.all = false := Bool.eq_false_iff.mpr fun h => hbad (IntegrityFlags.all_iff.mp h)
      rw [decFrameOf_bytes _ hsized, henforce, LongFields.check_error hsized hflags]
      rfl
  case short =>
    rw [short hi]
    exact execDecShort_of_ok (decShortOf_bytes c a k e back)
  case format =>
    rw [exec_fLong]
    exact execFLong_of_error (readLongFormat_unexpected _ hlong back)
  case lead =>
    rw [exec_decFrame]
    exact execDecFrame_of_error (decFrameOf_unexpected _ hchar hlong back)
  case cut =>
    rw [same hi]
    exact execDecFrame_of_error (decFrameOf_cut _ hcut)
  case small =>
    rw [same hi]
    exact execDecFrame_of_error (decFrameOf_small _ hall hsmall)
  case none =>
    rintro i (rfl | rfl | rfl | rfl) <;> rfl
  case shortCut =>
    rw [short hi]
    exact execDecShort_of_error (decShortOf_cut hcut)
  case shortLead =>
    rw [short hi]
    exact execDecShort_of_error (decShortOf_unexpected hlen hlead)

end Sys2Proof.Machine

/-! RX.FRAME and TX.FRAME: the frames they take, and how a receive fails (45_wired_frame.md R336, R340, R342). -/

namespace Sys2Proof.Machine

section
variable {s t : State} {more : List TpEvent}

/-! ## One turn of the receive -/

theorem rxFrame_of_error {c : Cause} (h : rxOnce s = (.error c, t)) : rxFrame s = (.error c, t) := by
  rw [rxFrame_eq, h]

theorem rxFrame_of_ok {fr : WiredFrame} {f : Bytes} (h : rxOnce s = (.ok (fr, f), t)) (hecho : t.lastTx ≠ some f) :
    rxFrame s = (.ok fr, t) := by
  rw [rxFrame_eq, h]
  exact if_neg hecho

/-- The frame transmitted last is dropped, and the receive starts again (R342). -/
theorem rxFrame_of_echo {fr : WiredFrame} {f : Bytes} (h : rxOnce s = (.ok (fr, f), t)) (hecho : t.lastTx = some f) :
    rxFrame s = rxFrame t := by
  rw [rxFrame_eq, h]
  exact if_pos hecho

/-! ## Long frames that arrive whole -/

/-- A long frame is taken and checked (R340). -/
theorem rxOnce_fields {x : LongFields} (h : x.Sized) (hin : s.tpIn = delivered x.bytes ++ more) :
    rxOnce s = (match checkLongFrame s.params.rxEnforceIntegrity x.l x.bytes with
      | .error c => .error c
      | .ok fr => .ok (.long fr, x.bytes), { s with tpIn := more }) :=
  rxOnce_long (Nat.add_right_cancel (m := 2) (LongFields.length_bytes h)) hin

/-- One that passes its checks, or whose checks are not enforced, is read (decision D28). -/
theorem rxOnce_fields_ok {x : LongFields} (h : x.Sized) (hin : s.tpIn = delivered x.bytes ++ more)
    (hflags : s.params.rxEnforceIntegrity = false ∨ x.flags.all = true) :
    rxOnce s = (.ok (.long x.frame, x.bytes), { s with tpIn := more }) := by
  rw [rxOnce_fields h hin, LongFields.check_ok h hflags]

theorem rxFrame_of_fields {x : LongFields} (h : x.Sized) (hin : s.tpIn = delivered x.bytes ++ more)
    (hflags : s.params.rxEnforceIntegrity = false ∨ x.flags.all = true) (hecho : s.lastTx ≠ some x.bytes) :
    rxFrame s = (.ok (.long x.frame), { s with tpIn := more }) :=
  rxFrame_of_ok (rxOnce_fields_ok h hin hflags) hecho

/-- A frame of ENC.LONG is received as it was built. -/
theorem rxFrame_of_encLongFrame {c a ci : Byte} {data : Bytes} (hmax : data.length ≤ 252)
    (hin : s.tpIn = delivered (encLongFrame c a ci data) ++ more) (hecho : s.lastTx ≠ some (encLongFrame c a ci data)) :
    rxFrame s = (.ok (.long (LongFields.encoded c a ci data).frame), { s with tpIn := more }) :=
  rxFrame_of_fields (LongFields.encoded_sized hmax) hin (.inr (LongFields.flags_encoded c a ci data)) hecho

/-- Echoes of a frame of ENC.LONG, however many, are dropped (decision D30). -/
theorem rxFrame_of_echoes {c a ci : Byte} {data : Bytes} (hmax : data.length ≤ 252)
    (hlast : s.lastTx = some (encLongFrame c a ci data)) (k : Nat)
    (hin : s.tpIn = (List.replicate k (delivered (encLongFrame c a ci data))).flatten ++ more) :
    rxFrame s = rxFrame { s with tpIn := more } := by
  induction k generalizing s with
  | zero => rw [show more = s.tpIn from hin.symm]
  | succ k ih =>
    rw [List.replicate_succ, List.flatten_cons, List.append_assoc] at hin
    have hturn := rxOnce_fields_ok (LongFields.encoded_sized hmax) hin (.inr (LongFields.flags_encoded c a ci data))
    rw [rxFrame_of_echo hturn hlast]
    exact ih hlast rfl

/-! ## Frames that do not arrive whole, or fail their checks -/

theorem tpReadByte_timeout (h : s.tpIn = .timeout :: more) : s.tpReadByte = (none, { s with tpIn := more }) := by
  rw [State.tpReadByte, h]
  rfl

/-- Fewer bytes than asked for before the timeout: those are the answer, and the timeout is taken (R8). -/
theorem tpReadExactly_short {bs : Bytes} {n : Nat} (hn : bs.length < n)
    (h : s.tpIn = delivered bs ++ .timeout :: more) : s.tpReadExactly n = (bs, { s with tpIn := more }) := by
  induction bs generalizing s n with
  | nil =>
    obtain ⟨n, rfl⟩ := Nat.exists_eq_succ_of_ne_zero (Nat.ne_zero_of_lt hn)
    rw [State.tpReadExactly, tpReadByte_timeout h]
  | cons b bs ih =>
    obtain ⟨n, rfl⟩ := Nat.exists_eq_succ_of_ne_zero (Nat.ne_zero_of_lt hn)
    have hfirst : s.tpIn = .byte b :: (delivered bs ++ .timeout :: more) := h
    rw [State.tpReadExactly, tpReadByte_delivered hfirst]
    simp only
    rw [ih (Nat.lt_of_succ_lt_succ hn) rfl]

/-- The second byte of a long frame does not arrive. -/
theorem rxFrame_of_lone_start (h : s.tpIn = delivered [0x68#8] ++ .timeout :: more) :
    rxFrame s = (.error .incompleteResponse, { s with tpIn := more }) := by
  have hfirst : s.tpIn = .byte 0x68#8 :: .timeout :: more := h
  refine rxFrame_of_error ?_
  rw [rxOnce, tpReadByte_delivered hfirst]
  simp only [show ¬(0x68#8 = 0xE5#8) by decide, if_false]
  rw [tpReadByte_timeout rfl]
  rfl

/-- The bytes after the length byte do not all arrive. -/
theorem rxFrame_of_cut {l : Byte} {f : Bytes} (hcut : f.length < l.toNat + 4)
    (h : s.tpIn = delivered (0x68#8 :: l :: f) ++ .timeout :: more) :
    rxFrame s = (.error .incompleteResponse, { s with tpIn := more }) := by
  have hfirst : s.tpIn = .byte 0x68#8 :: .byte l :: (delivered f ++ .timeout :: more) := h
  refine rxFrame_of_error ?_
  rw [rxOnce, tpReadByte_delivered hfirst]
  simp only [show ¬(0x68#8 = 0xE5#8) by decide, if_false]
  rw [tpReadByte_delivered rfl]
  simp only
  rw [tpReadExactly_short hcut rfl]
  exact if_pos hcut

/-- A length byte below 3 (decision D29). -/
theorem rxFrame_of_small {l : Byte} {f : Bytes} (hf : f.length = l.toNat + 4) (hsmall : l.toNat < 3)
    (h : s.tpIn = delivered (0x68#8 :: l :: f) ++ more) :
    rxFrame s = (.error .malformedFrame, { s with tpIn := more }) := by
  refine rxFrame_of_error ?_
  rw [rxOnce_long hf h, checkLongFrame_of_lt _ hsmall]

/-- A check that fails, if checks are enforced (decision D28). -/
theorem rxFrame_of_bad_flags {x : LongFields} (h : x.Sized) (henforce : s.params.rxEnforceIntegrity = true)
    (hflags : x.flags.all = false) (hin : s.tpIn = delivered x.bytes ++ more) :
    rxFrame s = (.error .malformedFrame, { s with tpIn := more }) := by
  refine rxFrame_of_error ?_
  rw [rxOnce_fields h hin, henforce, LongFields.check_error h hflags]

end

/-! ## The operations -/

section
variable {s t : State}

/-- RX.FRAME with LINK Idle answers what the receive takes. -/
theorem exec_rxFrame_of_ok {fr : WiredFrame} (hlink : needLink s = .ok ()) (h : rxFrame s = (.ok fr, t)) (n : Nat) :
    exec (.rxFrame n) s = .next (t.respond (.received fr)) := by
  rw [exec_rxFrame, execRxFrame_of_idle hlink, h]
  rfl

theorem exec_rxFrame_of_error {c : Cause} (hlink : needLink s = .ok ()) (h : rxFrame s = (.error c, t)) (n : Nat) :
    exec (.rxFrame n) s = .next (t.raise c) := by
  rw [exec_rxFrame, execRxFrame_of_idle hlink, h]
  rfl

end

theorem exec_txFrame_of_char {f : Bytes} {s : State} (hlink : needLink s = .ok ()) (hf : f.head? = some 0xE5#8) :
    exec (.txFrame f) s = .refused .singleCharacterOnlyReceived := by
  rw [exec_txFrame, execTxFrame, hlink, needSendable_error.mpr ⟨hf, rfl⟩]
  rfl

/-- Settles O44: by what `needLink` says, and then by what arrives. -/
theorem transportOperationsComplete : Obligations.TransportOperationsComplete := by
  intro f t more s
  have idle (hk : s.kind = .wired) (hl : s.link = .idle) : needLink s = .ok () := needLink_ok.mpr ⟨hk, hl⟩
  refine ⟨fun hk => ?wireless, fun hk hl => ?busy, fun hk hl hf => ?sent, fun hk hl hf => ?char,
    fun hk hl hin hecho => ?ack, fun hk hl => ?long, fun hk hl c a ci data hmax hin hecho => ?encoded,
    fun hk c a ci data k hmax hlast hin => ?echoes⟩
  case wireless =>
    have hlink := needLink_of_wireless hk
    exact ⟨exec_of_needLink_error rfl hlink, exec_of_needLink_error rfl hlink⟩
  case busy =>
    have hlink := needLink_of_busy hk hl
    exact ⟨exec_of_needLink_error rfl hlink, exec_of_needLink_error rfl hlink⟩
  case sent =>
    rw [exec_txFrame, execTxFrame_of_idle (idle hk hl) hf]
    rfl
  case char => exact exec_txFrame_of_char (idle hk hl) hf
  case ack => exact exec_rxFrame_of_ok (idle hk hl) (rxFrame_of_singleCharacter hin hecho) t
  case long =>
    rintro l l2 z c a ci k e data _ _ hsize rfl rfl hok hin hecho
    let x : LongFields := ⟨l, l2, z, c, a, ci, data, k, e⟩
    have hflags : s.params.rxEnforceIntegrity = false ∨ x.flags.all = true :=
      hok.imp_right fun h => IntegrityFlags.all_iff.mpr h
    exact exec_rxFrame_of_ok (idle hk hl) (rxFrame_of_fields (x := x) hsize hin hflags hecho) t
  case encoded =>
    exact ⟨_, exec_rxFrame_of_ok (idle hk hl) (rxFrame_of_encLongFrame hmax hin hecho) t, rfl, rfl, rfl, rfl, rfl,
      LongFields.flags_encoded c a ci data⟩
  case echoes =>
    have hsame := rxFrame_of_echoes hmax hlast k hin
    have busy {u : State} (hk : u.kind = .wired) (hl : u.link = .awaitingResponse) :
        exec (.rxFrame t) u = .refused .linkBusy := exec_of_needLink_error rfl (needLink_of_busy hk hl)
    obtain hl | hl : s.link = .idle ∨ s.link = .awaitingResponse := by cases s.link <;> simp
    · have hlink : needLink { s with tpIn := more } = .ok () := needLink_ok.mpr ⟨hk, hl⟩
      rw [exec_rxFrame, exec_rxFrame, execRxFrame_of_idle (idle hk hl), execRxFrame_of_idle hlink, hsame]
    · rw [busy hk hl, busy (u := { s with tpIn := more }) hk hl]

/-- Settles O45: by what arrives. -/
theorem rxFrameTraps : Obligations.RxFrameTraps := by
  intro t b l f more s hk hl
  have hlink : needLink s = .ok () := needLink_ok.mpr ⟨hk, hl⟩
  have ends {u : State} {c : Cause} (h : rxFrame s = (.error c, u)) : exec (.rxFrame t) s = .next (u.raise c) :=
    exec_rxFrame_of_error hlink h t
  have silence {u : State} (h : s.tpReadByte = (none, u)) : rxFrame s = (.error .noResponse, u) :=
    rxFrame_of_error (by rw [rxOnce, h])
  refine ⟨fun hin => ?nothing, fun hin => ends (silence (tpReadByte_timeout hin)),
    fun hin hchar hlong => ends (rxFrame_of_unexpectedByte hin hchar hlong), fun hin => ends (rxFrame_of_lone_start hin),
    fun hin hcut => ends (rxFrame_of_cut hcut hin), fun hin hf hsmall => ends (rxFrame_of_small hf hsmall hin),
    fun l2 z c a ci k e data hsize henforce hbad hin => ?bad⟩
  case nothing =>
    refine ends (silence ?_)
    rw [State.tpReadByte, hin]
    simp only [takeByte, Bool.false_eq_true, if_false]
    rw [← hin]
  case bad =>
    let x : LongFields := ⟨l, l2, z, c, a, ci, data, k, e⟩
    have hflags : x.flags.all = false := Bool.eq_false_iff.mpr fun h => hbad (LongFields.flags_all_iff.mp h)
    exact ends (rxFrame_of_bad_flags (x := x) hsize henforce hflags hin)

end Sys2Proof.Machine

/-! The acknowledged link operations: one frame, one receive, and E5 (45_wired_frame.md R351 to R356). -/

namespace Sys2Proof.Machine

/-! ## The frame of each operation -/

section
variable {s : State} {t : Nat} {a : Byte} {payload : Bytes}

theorem ackOp_of_ok {f : Bytes} {frame : Run Bytes} (hlink : needLink s = .ok ()) (hframe : frame = .ok f)
    (onAck : State → State) : ackOp frame onAck s = ackExchange f onAck s := by
  rw [ackOp, hlink, hframe]
  rfl

theorem ackOp_of_tooLong {frame : Run Bytes} (hlink : needLink s = .ok ())
    (hframe : frame = .error (.refused .payloadTooLong)) (onAck : State → State) :
    ackOp frame onAck s = .refused .payloadTooLong := by
  rw [ackOp, hlink, hframe]
  rfl

theorem exec_lnkWrite_of_le (hlink : needLink s = .ok ()) (h : payload.length ≤ 252) :
    exec (.lnkWrite a payload t) s = ackExchange (encLongFrame 0x73#8 a 0x51#8 payload) id s :=
  ackOp_of_ok hlink (encLongOp_of_le h _ _ _) id

theorem exec_lnkSelrd_of_le (hlink : needLink s = .ok ()) (h : payload.length ≤ 252) :
    exec (.lnkSelrd a payload t) s = ackExchange (encLongFrame s.params.cSndUdSel a 0x51#8 payload) id s :=
  ackOp_of_ok hlink (encLongOp_of_le h _ _ _) id

theorem exec_lnkRstrd (hlink : needLink s = .ok ()) :
    exec (.lnkRstrd a t) s = ackExchange (encLongFrame s.params.cSndUdSel a 0x50#8 []) id s :=
  ackOp_of_ok hlink (encLongOp_of_le (Nat.zero_le _) _ _ _) id

theorem exec_lnkReset (hlink : needLink s = .ok ()) :
    exec (.lnkReset a t) s =
      ackExchange [0x10#8, 0x40#8, a, 0x40#8 + a, 0x16#8] (fun s => s.setFcb (fcbSet s.fcb a)) s :=
  ackOp_of_ok hlink (congrArg _ (encShortFrame_eq _ _)) _

/-- The frame of the select family, of an address that is there (decision D47). -/
theorem selectFrame_of_saAt {sa : SaRef} {x : SecondaryAddress} (hsa : saAt s sa = .ok x) (h : x.raw.length ≤ 252)
    (ci : Byte) :
    (do let a ← saAt s sa; selectFrame s.params ci a.raw) = .ok (encLongFrame s.params.cSndUdSel 0xFD#8 ci x.raw) := by
  rw [hsa]
  exact encLongOp_of_le h _ _ _

theorem exec_lnkSelect_of_saAt {sa : SaRef} {x : SecondaryAddress} (hlink : needLink s = .ok ())
    (hsa : saAt s sa = .ok x) (h : x.raw.length ≤ 252) :
    exec (.lnkSelect sa t) s = ackExchange (encLongFrame s.params.cSndUdSel 0xFD#8 0x52#8 x.raw) id s :=
  ackOp_of_ok hlink (selectFrame_of_saAt hsa h _) id

theorem exec_lnkDeselect_of_saAt {sa : SaRef} {x : SecondaryAddress} (hlink : needLink s = .ok ())
    (hsa : saAt s sa = .ok x) (h : x.raw.length ≤ 252) :
    exec (.lnkDeselect sa t) s = ackExchange (encLongFrame s.params.cSndUdSel 0xFD#8 0x56#8 x.raw) id s :=
  ackOp_of_ok hlink (selectFrame_of_saAt hsa h _) id

end

/-! ## The exchange on E5 -/

theorem fcbGet_fcbSet_self (f : BitVec 256) (a : Byte) : fcbGet (fcbSet f a) a = true := by
  have ha : a.toNat < 256 := a.isLt
  simp [fcbGet, fcbSet, ha]

/-- `s` after a frame was sent and the acknowledgement was taken from before `more`. -/
def State.acknowledged (f : Bytes) (more : List TpEvent) (s : State) : State :=
  { s with tpOut := s.tpOut ++ [f], lastTx := some f, tpIn := more, resp := some (.result .none) }

/-- The acknowledgement ends the exchange; of the state it writes, an operation chooses FCB only. -/
theorem ackExchange_of_ack {s : State} {more : List TpEvent} {f : Bytes} (hl : s.link = .idle)
    (hin : s.tpIn = delivered [0xE5#8] ++ more) (hf : f.head? ≠ some 0xE5#8) (g : BitVec 256 → BitVec 256) :
    ackExchange f (fun s => s.setFcb (g s.fcb)) s = .next ((s.acknowledged f more).setFcb (g s.fcb)) := by
  have hecho : ((s.transmit f).setLink .awaitingResponse).lastTx ≠ some [0xE5#8] :=
    fun h => hf (by rw [Option.some.inj h]; rfl)
  have hreceived : exchange f id s =
      (.ok .singleCharacter, { (s.transmit f).setLink .awaitingResponse with tpIn := more }) :=
    rxFrame_of_singleCharacter (s := (s.transmit f).setLink .awaitingResponse) hin hecho
  rw [ackExchange, hreceived, State.acknowledged, ← hl]
  rfl

/-- Settles O46: the frame of each operation, and `ackExchange_of_ack`. -/
theorem acknowledgedOperationsComplete : Obligations.AcknowledgedOperationsComplete := by
  rintro a payload sa x t more s hk hl hin _ rfl
  have hlink : needLink s = .ok () := needLink_ok.mpr ⟨hk, hl⟩
  have long (c a' ci : Byte) (data : Bytes) :
      ackExchange (encLongFrame c a' ci data) id s = .next (s.acknowledged (encLongFrame c a' ci data) more) :=
    ackExchange_of_ack hl hin (by rw [encLongFrame_head]; decide) id
  refine ⟨fun hmax => ⟨?_, ?_⟩, fun hover => ⟨?_, ?_⟩, ?rstrd, ⟨fcbSet s.fcb a, ?reset, fcbGet_fcbSet_self s.fcb a,
    fun b hb => fcbGet_fcbSet_of_ne hb s.fcb⟩, fun hsa hraw => ⟨?_, ?_⟩⟩
  · exact (exec_lnkWrite_of_le hlink hmax).trans (long _ _ _ _)
  · exact (exec_lnkSelrd_of_le hlink hmax).trans (long _ _ _ _)
  · exact ackOp_of_tooLong hlink (encLongOp_of_lt hover _ _ _) id
  · exact ackOp_of_tooLong hlink (encLongOp_of_lt hover _ _ _) id
  case rstrd => exact (exec_lnkRstrd hlink).trans (long _ _ _ _)
  case reset => exact (exec_lnkReset hlink).trans (ackExchange_of_ack hl hin (by simp) fun fcb => fcbSet fcb a)
  · exact (exec_lnkSelect_of_saAt hlink hsa (by omega)).trans (long _ _ _ _)
  · exact (exec_lnkDeselect_of_saAt hlink hsa (by omega)).trans (long _ _ _ _)

/-! ## The exchange as TX.FRAME and RX.FRAME -/

/-- What an acknowledged operation leaves, by the ending of its receive and the state `t` the receive left. -/
def ackEnding (g : BitVec 256 → BitVec 256) : Dec WiredFrame → State → State
  | .ok .singleCharacter, t => (t.setFcb (g t.fcb)).respond .none
  | .ok (.long _), t => t.raise .unexpectedResponse
  | .error c, t => t.raise c

/-- The exchange of an acknowledged operation, by the receive after TX.FRAME. -/
theorem ackExchange_eq {s : State} (hl : s.link = .idle) (f : Bytes) (g : BitVec 256 → BitVec 256) :
    ackExchange f (fun s => s.setFcb (g s.fcb)) s =
      let x := rxFrame ((s.transmit f).respond .none)
      .next (ackEnding g x.1 x.2) := by
  have hidle : (rxFrame ((s.transmit f).respond .none)).2.link = .idle := by
    rw [(rxFrame_received _).others]
    exact hl
  rw [ackExchange, exchange_eq_rxFrame_transmit]
  match rxFrame ((s.transmit f).respond .none), hidle with
  | (.ok .singleCharacter, t), hidle | (.ok (.long _), t), hidle | (.error c, t), hidle =>
    change t.link = .idle at hidle
    cases t
    cases hidle
    rfl

/-- Settles O47: each operation is `ackExchange` of its frame, and that is a receive after TX.FRAME. -/
theorem acknowledgedOperationsExchangeFrames : Obligations.AcknowledgedOperationsExchangeFrames := by
  intro i a payload f t s hk hl hmax hrow
  have hlink : needLink s = .ok () := needLink_ok.mpr ⟨hk, hl⟩
  have hexec : ∃ g : BitVec 256 → BitVec 256, exec i s = ackExchange f (fun s => s.setFcb (g s.fcb)) s ∧
      (i ≠ .lnkReset a t → g = id) ∧ f.head? ≠ some 0xE5#8 := by
    obtain ⟨rfl, rfl⟩ | ⟨rfl, rfl⟩ | ⟨rfl, rfl⟩ | ⟨rfl, rfl⟩ | ⟨sa, x, hsa, rfl, ⟨rfl, rfl⟩ | ⟨rfl, rfl⟩⟩ := hrow
    · exact ⟨id, exec_lnkWrite_of_le hlink hmax, fun _ => rfl, by rw [encLongFrame_head]; decide⟩
    · exact ⟨id, exec_lnkSelrd_of_le hlink hmax, fun _ => rfl, by rw [encLongFrame_head]; decide⟩
    · exact ⟨id, exec_lnkRstrd hlink, fun _ => rfl, by rw [encLongFrame_head]; decide⟩
    · exact ⟨fun fcb => fcbSet fcb a, exec_lnkReset hlink, fun h => absurd rfl h, by simp⟩
    · exact ⟨id, exec_lnkSelect_of_saAt hlink hsa hmax, fun _ => rfl, by rw [encLongFrame_head]; decide⟩
    · exact ⟨id, exec_lnkDeselect_of_saAt hlink hsa hmax, fun _ => rfl, by rw [encLongFrame_head]; decide⟩
  obtain ⟨g, hexec, hother, hhead⟩ := hexec
  let m := (s.transmit f).respond .none
  have hlink' : needLink m = .ok () := needLink_ok.mpr ⟨hk, hl⟩
  have hfcb : (rxFrame m).2.fcb = s.fcb := by rw [(rxFrame_received m).others]; rfl
  refine ⟨m, (rxFrame m).2.answerReceive (rxFrame m).1, ackEnding g (rxFrame m).1 (rxFrame m).2, ?_, ?_,
    hexec.trans (ackExchange_eq hl f g), ?_⟩
  · rw [exec_txFrame, execTxFrame_of_idle hlink hhead]
  · rw [exec_rxFrame, execRxFrame_of_idle hlink']
  match rxFrame m, hfcb with
  | (.ok .singleCharacter, r), hfcb =>
    refine ⟨fun _ => ⟨rfl, fun hi => ?_⟩, fun _ h => (by cases h), fun _ h => (by cases h)⟩
    rw [hother hi]
    exact hfcb
  | (.ok (.long fr), r), _ => exact ⟨fun h => (by cases h), fun _ _ => rfl, fun _ h => (by cases h)⟩
  | (.error c, r), _ => exact ⟨fun h => (by cases h), fun _ h => (by cases h), fun _ _ => rfl⟩

end Sys2Proof.Machine

/-! LNK.READ on every ending (45_wired_frame.md R350). -/

namespace Sys2Proof.Machine

/-- The request of LNK.READ. -/
theorem readFrame_eq (fcb : Bool) (a : Byte) : encShortFrame (reqUd2Control fcb) a =
    [0x10#8, if fcb then 0x7B#8 else 0x5B#8, a, (if fcb then 0x7B#8 else 0x5B#8) + a, 0x16#8] := by
  rw [encShortFrame_eq, reqUd2Control_eq]

theorem fcbToggle_fcbToggle (f : BitVec 256) (a : Byte) : fcbToggle (fcbToggle f a) a = f := by
  rw [fcbToggle, fcbToggle, BitVec.xor_assoc, BitVec.xor_self, BitVec.xor_zero]

/-- Whatever its ending, LNK.READ is one exchange, and a new VDS if it succeeds. -/
theorem exec_lnkRead_next {a : Byte} {t : Nat} {s u : State} (h : exec (.lnkRead a t) s = .next u) :
    ∃ x new y, State.Exchanged s (encShortFrame (reqUd2Control (fcbGet s.fcb a)) a) (fcbToggle s.fcb a) x ∧
      u = { x with vdss := s.vdss ++ new, resp := y } := by
  obtain ⟨-, hlink, hnext⟩ | ⟨c, hraised, -⟩ := proceed_next.mp h
  · refine ⟨(readExchange a s).2, ?_⟩
    have hsent := readExchange_exchanged a s
    have hvdss : (readExchange a s).2.vdss = s.vdss := by rw [hsent.others]
    match readExchange a s, hsent, hvdss, hnext with
    | (.ok v, x), hsent, hvdss, rfl => exact ⟨[v], _, hsent, by rw [← hvdss]; rfl⟩
    | (.error c, x), hsent, hvdss, rfl => exact ⟨[], _, hsent, by rw [List.append_nil, ← hvdss]; rfl⟩
  · exact absurd hraised (needLink_ne_raised s c)

/-- Settles O48: the exchange writes no other field, and toggling the bit twice restores it. -/
theorem lnkReadTogglesOnEveryEnding : Obligations.LnkReadTogglesOnEveryEnding := by
  rintro a t s u h _ rfl
  obtain ⟨x, new, y, hsent, hu⟩ := exec_lnkRead_next h
  have hothers := hsent.others
  have hscan : u.scanner.pos = s.scanner.pos ∧ u.scanner.value = s.scanner.value ∧ u.scanner.found = s.scanner.found := by
    have hscanner : u.scanner = x.scanner := by rw [hu]
    rw [hscanner]
    obtain hsame | habort := hsent.scanner
    · simp [hsame]
    · simp [habort]
  obtain ⟨hpos, hvalue, hfound⟩ := hscan
  have hfcb : u.fcb = fcbToggle s.fcb a := by rw [hu, hothers]
  have hbit : fcbGet u.fcb a = !fcbGet s.fcb a := by rw [hfcb, fcbGet_fcbToggle_self]
  refine ⟨by rw [hu, hothers, readFrame_eq], by rw [hu, hothers, readFrame_eq], by rw [hu, hothers], hbit, fun b hb => ?_,
    by rw [hu, hothers], hpos, hvalue, hfound, by rw [hu, hothers], by rw [hu, hothers], by rw [hu, hothers],
    by rw [hu, hothers], by rw [hu, hothers], by rw [hu, hothers], by rw [hu, hothers], ⟨new, by rw [hu]⟩,
    fun w hw => ?next⟩
  · rw [hfcb, fcbGet_fcbToggle_of_ne hb]
  case next =>
    obtain ⟨x', new', y', hsent', hw⟩ := exec_lnkRead_next hw
    refine ⟨_, by rw [hw, hsent'.others], by rw [hw, hsent'.others, hfcb, fcbToggle_fcbToggle], ?_⟩
    rw [readFrame_eq, hbit]
    cases fcbGet s.fcb a <;> rfl

end Sys2Proof.Machine

/-! The data fields, by their code and hint (42_data_record.md R196 to R204; 30_encoding.md R108, R109). -/

namespace Sys2Proof.Machine

/-! ## The rows F-DATA and LVAR -/

theorem exec_fData (code : Byte) (hint : Hint) (buf : Bytes) (s : State) :
    exec (.fData code hint buf) s = concludeFields (readField (readData code.toNat hint) buf) s := rfl
theorem exec_lvar (buf : Bytes) (s : State) : exec (.lvar buf) s = concludeFields (readField readString buf) s := rfl
theorem exec_fBcd (b : Bytes) (s : State) : exec (.fBcd b) s = execFBcd b s := rfl

section
variable {r : Bytes → Dec (DataValue × Bytes)} {buf : Bytes} {s : State}

/-- A field that was read is answered with the number of bytes it took. -/
theorem concludeField_ok {v : DataValue} {rest : Bytes} {n : Nat} (h : r buf = .ok (v, rest))
    (hn : n = buf.length - rest.length) :
    concludeFields (readField r buf) s = .next (s.respond (.fields (.data v n))) :=
  concludeFields_ok (Dec.bind_ok.mpr ⟨_, h, by rw [hn]⟩) s

theorem concludeField_error {c : Cause} (h : r buf = .error c) :
    concludeFields (readField r buf) s = .next (s.raise c) :=
  concludeFields_error (Dec.bind_error.mpr (.inl h)) s

end

/-! ## The dispatch on the code -/

/-- The codes of signed integers, and the bytes of each (R198). -/
def longCodes : List (Byte × Nat) := [(0x1#8, 1), (0x2#8, 2), (0x3#8, 3), (0x4#8, 4), (0x6#8, 6), (0x7#8, 8)]

/-- The codes of packed decimals, and the bytes of each (R200). -/
def bcdCodes : List (Byte × Nat) := [(0x9#8, 1), (0xA#8, 2), (0xB#8, 3), (0xC#8, 4), (0xE#8, 6)]

theorem longCodes_width {code : Byte} {n : Nat} (h : (code, n) ∈ longCodes) : 1 ≤ n ∧ n ≤ 8 := by
  have hall : ∀ x ∈ longCodes, 1 ≤ x.2 ∧ x.2 ≤ 8 := by decide
  exact hall _ h

theorem bcdCodes_width {code : Byte} {n : Nat} (h : (code, n) ∈ bcdCodes) : 1 ≤ n := by
  have hall : ∀ x ∈ bcdCodes, 1 ≤ x.2 := by decide
  exact hall _ h

/-- The numeric codes of a fixed number of bytes: integers, the float and packed decimals. -/
theorem numericCodes_cases : ∀ x ∈ ([(0x1#8, 1), (0x2#8, 2), (0x3#8, 3), (0x4#8, 4), (0x5#8, 4), (0x6#8, 6), (0x7#8, 8),
    (0x9#8, 1), (0xA#8, 2), (0xB#8, 3), (0xC#8, 4), (0xE#8, 6)] : List (Byte × Nat)),
    x ∈ longCodes ∨ x = (0x5#8, 4) ∨ x ∈ bcdCodes := by
  decide

theorem readData_long {code : Byte} {n : Nat} (h : (code, n) ∈ longCodes) (w : Bytes) :
    readData code.toNat .numeric w = readLong n w := by
  simp only [longCodes, List.mem_cons, Prod.mk.injEq, List.not_mem_nil, or_false] at h
  obtain ⟨rfl, rfl⟩ | ⟨rfl, rfl⟩ | ⟨rfl, rfl⟩ | ⟨rfl, rfl⟩ | ⟨rfl, rfl⟩ | ⟨rfl, rfl⟩ := h <;> rfl

theorem readData_bcd {code : Byte} {n : Nat} (h : (code, n) ∈ bcdCodes) (w : Bytes) :
    readData code.toNat .numeric w = readBcd n w := by
  simp only [bcdCodes, List.mem_cons, Prod.mk.injEq, List.not_mem_nil, or_false] at h
  obtain ⟨rfl, rfl⟩ | ⟨rfl, rfl⟩ | ⟨rfl, rfl⟩ | ⟨rfl, rfl⟩ | ⟨rfl, rfl⟩ := h <;> rfl

theorem readData_float (w : Bytes) : readData (0x5#8 : Byte).toNat .numeric w = readFloat w := rfl
theorem readData_string (w : Bytes) : readData (0xD#8 : Byte).toNat .numeric w = readString w := rfl
theorem readData_dateG (w : Bytes) : readData (0x2#8 : Byte).toNat .date w = readDateG w := rfl
theorem readData_dateF (w : Bytes) : readData (0x4#8 : Byte).toNat .date w = readDateF w := rfl

/-- Under a DATE hint only the two dates are read (log 34). -/
theorem readData_date_of_ne {code : Byte} (h2 : code ≠ 0x2#8) (h4 : code ≠ 0x4#8) (w : Bytes) :
    readData code.toNat .date w = .error .unrecognisedDifVif := by
  have ne {k : Byte} (h : code ≠ k) : code.toNat ≠ k.toNat := fun heq => h (BitVec.eq_of_toNat_eq heq)
  exact (if_neg (ne h2)).trans (if_neg (ne h4))

/-! ## Fields of a fixed number of bytes -/

section
variable {d w : Bytes} {n : Nat}

theorem memRead_append_of_length (h : d.length = n) (w : Bytes) : memRead n (d ++ w) = .ok (d, w) :=
  memRead_ok.mpr ⟨rfl, h⟩

theorem memRead_bind_cut {α : Type} (h : d.length < n) (k : Bytes × Bytes → Dec α) :
    (memRead n d >>= k) = .error .truncatedBuffer :=
  Dec.bind_error.mpr (.inl (memRead_error.mpr ⟨h, rfl⟩))

theorem readLong_append (h : d.length = n) (w : Bytes) : readLong n (d ++ w) = .ok (.long (longValue d), w) :=
  Dec.bind_ok.mpr ⟨_, memRead_append_of_length h w, rfl⟩

theorem readFloat_append (h : d.length = 4) (w : Bytes) :
    readFloat (d ++ w) = .ok (.double (widenFloat (BitVec.ofNat 32 (leNat d))), w) :=
  Dec.bind_ok.mpr ⟨_, memRead_append_of_length h w, rfl⟩

theorem readBcd_append_ok {x : Bcd} (h : d.length = n) (hx : bcdDecode d = .ok x) (w : Bytes) :
    readBcd n (d ++ w) = .ok (.bcd x, w) :=
  Dec.bind_ok.mpr ⟨_, memRead_append_of_length h w, Dec.bind_ok.mpr ⟨x, hx, rfl⟩⟩

theorem readBcd_append_error {c : Cause} (h : d.length = n) (hc : bcdDecode d = .error c) (w : Bytes) :
    readBcd n (d ++ w) = .error c :=
  Dec.bind_error.mpr (.inr ⟨_, memRead_append_of_length h w, Dec.bind_error.mpr (.inl hc)⟩)

/-- A field cut short is truncated, whatever it would have been (R66). -/
theorem readData_numeric_cut {code : Byte} (hcode : (code, n) ∈ longCodes ∨ (code, n) = (0x5#8, 4) ∨ (code, n) ∈ bcdCodes)
    (h : d.length < n) : readData code.toNat .numeric d = .error .truncatedBuffer := by
  obtain hlong | hfloat | hbcd := hcode
  · rw [readData_long hlong]
    exact memRead_bind_cut h _
  · cases hfloat
    exact memRead_bind_cut h _
  · rw [readData_bcd hbcd]
    exact memRead_bind_cut h _

end

/-! ## Signed integers -/

theorem leNat_lt (d : Bytes) : leNat d < 2 ^ (8 * d.length) := by
  induction d with
  | nil => exact Nat.one_pos
  | cons b d ih =>
    have hb := b.isLt
    rw [leNat, List.length_cons, Nat.mul_succ, Nat.pow_add]
    omega

/-- The two's complement value of the field (R198). -/
theorem longValue_toInt {d : Bytes} (hpos : 1 ≤ d.length) (hmax : d.length ≤ 8) : (longValue d).toInt =
    if leNat d < 2 ^ (8 * d.length - 1) then (leNat d : Int) else leNat d - 2 ^ (8 * d.length) := by
  have hlt := leNat_lt d
  have hdouble : 2 ^ (8 * d.length) = 2 * 2 ^ (8 * d.length - 1) := by
    rw [← Nat.pow_succ']
    congr 1
    omega
  have hle : 2 ^ (8 * d.length - 1) ≤ 2 ^ 63 := Nat.pow_le_pow_right (by decide) (by omega)
  have hcast : ((2 : Int) ^ (8 * d.length)) = ((2 ^ (8 * d.length) : Nat) : Int) := by norm_cast
  refine toInt_ofInt_of_fitsSigned (by decide) (fitsSigned_iff.mpr ?_)
  rw [sext, hcast]
  split <;> omega

/-! ## Strings and dates -/

theorem readString_append {l : Byte} {d : Bytes} (hl : l.toNat = d.length) (hstring : l.toNat < 0xC0) (w : Bytes) :
    readString (l :: d ++ w) = .ok (.string (d.reverse.map fun c => Char.ofNat c.toNat), w) := by
  have hlvar : ¬l.toNat ≥ 0xC0 := by omega
  refine Dec.bind_ok.mpr ⟨(l, d ++ w), rfl, ?_⟩
  dsimp only
  rw [if_neg hlvar, memRead_append_of_length hl.symm]
  rfl

theorem readString_of_ge {l : Byte} (h : 0xC0 ≤ l.toNat) (w : Bytes) :
    readString (l :: w) = .error .unrecognisedDifVif := by
  refine Dec.bind_error.mpr (.inr ⟨(l, w), rfl, ?_⟩)
  dsimp only
  rw [if_pos h]

theorem readString_cut {l : Byte} {w : Bytes} (hstring : l.toNat < 0xC0) (h : w.length < l.toNat) :
    readString (l :: w) = .error .truncatedBuffer := by
  have hlvar : ¬l.toNat ≥ 0xC0 := by omega
  refine Dec.bind_error.mpr (.inr ⟨(l, w), rfl, ?_⟩)
  dsimp only
  rw [if_neg hlvar]
  exact memRead_bind_cut h _

theorem bitsOf_low (v w : Nat) : bitsOf v 0 w = v % 2 ^ w := by
  rw [bitsOf, Nat.pow_zero, Nat.div_one]

/-- The bits of a byte from bit `k` up. -/
theorem bitsOf_high (b : Byte) {k w : Nat} (h : k + w = 8) : bitsOf b.toNat k w = b.toNat / 2 ^ k := by
  refine Nat.mod_eq_of_lt (Nat.div_lt_of_lt_mul ?_)
  rw [← Nat.pow_add, h]
  exact b.isLt

theorem bitsOf_msb (b : Byte) : (bitsOf b.toNat 7 1 == 1) = b.msb := by
  have hb := b.isLt
  rw [bitsOf_high b rfl, BitVec.msb_eq_decide, Bool.eq_iff_iff, beq_iff_eq, decide_eq_true_eq]
  omega

theorem readDateG_cons (s0 s1 : Byte) (w : Bytes) :
    readDateG (s0 :: s1 :: w) = .ok (.dateG
      { day := s0.toNat % 32, month := s1.toNat % 16,
        year := s0.toNat / 32 + 8 * (s1.toNat / 16) }, w) := by
  refine Dec.bind_ok.mpr ⟨([s0, s1], w), rfl, ?_⟩
  simp only [byteAt, List.getD_cons_zero, List.getD_cons_succ, bitsOf_low, bitsOf_high _ (show 5 + 3 = 8 from rfl),
    bitsOf_high _ (show 4 + 4 = 8 from rfl), Nat.reducePow]

theorem readDateF_cons (s0 s1 s2 s3 : Byte) (w : Bytes) :
    readDateF (s0 :: s1 :: s2 :: s3 :: w) = .ok (.dateF
      { minute := s0.toNat % 64, invalid := s0.msb, hour := s1.toNat % 32, summer := s1.msb,
        day := s2.toNat % 32, month := s3.toNat % 16,
        year := s2.toNat / 32 + 8 * (s3.toNat / 16) }, w) := by
  refine Dec.bind_ok.mpr ⟨([s0, s1, s2, s3], w), rfl, ?_⟩
  simp only [byteAt, List.getD_cons_zero, List.getD_cons_succ, bitsOf_low, bitsOf_msb,
    bitsOf_high _ (show 5 + 3 = 8 from rfl), bitsOf_high _ (show 4 + 4 = 8 from rfl), Nat.reducePow]

/-- F-BCD answers what BCD.DEC reads. -/
theorem exec_fBcd_of_decode {b : Bytes} {x : Bcd} (hb : b ≠ []) (h : bcdDecode b = .ok x) (s : State) :
    exec (.fBcd b) s = .next (s.respond (.fields (.bcd x))) := by
  rw [exec_fBcd, execFBcd, bcdDecodeOp_of_ne_nil hb, h]
  rfl

/-- Settles O28: the dispatch on the code and the hint, then the reader of the field. -/
theorem dataFieldsByCode : Obligations.DataFieldsByCode := by
  intro data w s
  have field {code : Byte} {hint : Hint} {d : Bytes} {v : DataValue} {n : Nat}
      (h : readData code.toNat hint (d ++ w) = .ok (v, w)) (hn : d.length = n) :
      exec (.fData code hint (d ++ w)) s = .next (s.respond (.fields (.data v n))) :=
    concludeField_ok h (by rw [List.length_append, Nat.add_sub_cancel, hn])
  have fails {code : Byte} {hint : Hint} {d : Bytes} {c : Cause} (h : readData code.toNat hint d = .error c) :
      exec (.fData code hint d) s = .next (s.raise c) := concludeField_error h
  refine ⟨fun code n hcode hlen => ?long, fun code n hcode hlen => ⟨fun hpacked => ?packed, fun hbad => ?notPacked⟩,
    fun l hl hstring r hr => ?string, fun l hl => ?noString, fun hlen => ⟨widenFloat (BitVec.ofNat 32 (leNat data)), ?float⟩,
    fun code n hcode hcut => fails (readData_numeric_cut ?codes hcut), fun code n hcode hcut => ?dateCut,
    ⟨fails rfl, concludeField_error (r := readString) (buf := []) rfl⟩, fun l hstring hcut => ?stringCut, fun s0 s1 => ?dateG,
    fun s0 s1 s2 s3 => ?dateF, ⟨?none, ?none', fails rfl⟩, fun code _ h2 h4 => fails (readData_date_of_ne h2 h4 w)⟩
  case long =>
    have hwidth := longCodes_width hcode
    refine ⟨longValue data, field ?_ hlen, ?_⟩
    · rw [readData_long hcode, readLong_append hlen]
    · rw [longValue_toInt (by omega) (by omega), hlen]
  case packed =>
    obtain ⟨x, hx⟩ := (bcdDecode_packed hpacked.1).1 hpacked
    refine ⟨x, exec_fBcd_of_decode hpacked.1 hx s, field ?_ hlen⟩
    rw [readData_bcd hcode, readBcd_append_ok hlen hx]
  case notPacked =>
    have hne : data ≠ [] := List.length_pos_iff.mp (by have := bcdCodes_width hcode; omega)
    refine fails ?_
    rw [readData_bcd hcode, readBcd_append_error hlen ((bcdDecode_packed hne).2 hbad)]
  case string =>
    have hread := readString_append hl hstring w
    have hn : 1 + l.toNat = (l :: data ++ w).length - w.length := by
      rw [List.length_append, Nat.add_sub_cancel, List.length_cons, hl, Nat.add_comm]
    rw [hr]
    exact ⟨concludeField_ok hread hn, concludeField_ok hread hn⟩
  case noString => exact ⟨fails (readString_of_ge hl w), concludeField_error (readString_of_ge hl w)⟩
  case float => exact field (readFloat_append hlen w) hlen
  case codes => exact numericCodes_cases _ hcode
  case dateCut =>
    simp only [List.mem_cons, Prod.mk.injEq, List.not_mem_nil, or_false] at hcode
    obtain ⟨rfl, rfl⟩ | ⟨rfl, rfl⟩ := hcode
    · exact fails (memRead_bind_cut hcut _)
    · exact fails (memRead_bind_cut hcut _)
  case stringCut => exact ⟨fails (readString_cut hstring hcut), concludeField_error (readString_cut hstring hcut)⟩
  case dateG => exact field (d := [s0, s1]) (readDateG_cons s0 s1 w) rfl
  case dateF => exact field (d := [s0, s1, s2, s3]) (readDateF_cons s0 s1 s2 s3 w) rfl
  case none => exact field (d := []) rfl rfl
  case none' => exact field (d := []) rfl rfl

end Sys2Proof.Machine

/-! A binary32 field is widened to binary64 (42_data_record.md R199). -/

namespace Sys2Proof.Machine

/-! ## A binary64 pattern by its three fields -/

/-- The pattern with sign `sign`, exponent `e` and fraction `f`. -/
def doubleBits (sign : Bool) (e f : Nat) : BitVec 64 :=
  BitVec.ofNat 64 ((if sign then 2 ^ 63 else 0) + e * 2 ^ 52 + f)

section
variable {sign : Bool} {e f : Nat}

theorem doubleBits_toNat (he : e < 2048) (hf : f < 2 ^ 52) :
    (doubleBits sign e f).toNat = (if sign then 2 ^ 63 else 0) + e * 2 ^ 52 + f := by
  rw [doubleBits, BitVec.toNat_ofNat]
  refine Nat.mod_eq_of_lt ?_
  split <;> omega

theorem doubleBits_msb (he : e < 2048) (hf : f < 2 ^ 52) : (doubleBits sign e f).msb = sign := by
  rw [BitVec.msb_eq_decide, doubleBits_toNat he hf]
  cases sign
  · exact decide_eq_false (by simp only [Bool.false_eq_true, if_false]; omega)
  · exact decide_eq_true (by simp only [if_true]; omega)

theorem doubleBits_exponent (he : e < 2048) (hf : f < 2 ^ 52) : (doubleBits sign e f).toNat / 2 ^ 52 % 2048 = e := by
  rw [doubleBits_toNat he hf]
  split <;> omega

theorem doubleBits_fraction (he : e < 2048) (hf : f < 2 ^ 52) : (doubleBits sign e f).toNat % 2 ^ 52 = f := by
  rw [doubleBits_toNat he hf]
  split <;> omega

/-- The magnitude of a finite pattern, by its exponent and fraction. -/
def doubleMagnitude (e f : Nat) : ℚ :=
  if e = 0 then (f : ℚ) * 2 ^ (-1074 : Int) else ((2 ^ 52 + f : Nat) : ℚ) * 2 ^ ((e : Int) - 1075)

theorem float64Value_doubleBits (he : e < 2048) (hf : f < 2 ^ 52) :
    float64Value (doubleBits sign e f) = if sign then -doubleMagnitude e f else doubleMagnitude e f := by
  have hexponent : bitsOf (doubleBits sign e f).toNat 52 11 = e := doubleBits_exponent he hf
  have hfraction : bitsOf (doubleBits sign e f).toNat 0 52 = f := by
    rw [bitsOf_low]
    exact doubleBits_fraction he hf
  rw [float64Value, hexponent, hfraction, doubleBits_msb he hf]
  rfl

end

/-- The magnitude of a finite binary32 pattern, by its exponent and fraction. -/
def floatMagnitude (e f : Nat) : ℚ :=
  if e = 0 then (f : ℚ) * 2 ^ (-149 : Int) else ((2 ^ 23 + f : Nat) : ℚ) * 2 ^ ((e : Int) - 150)

theorem float32Value_eq (b : BitVec 32) : float32Value b =
    if b.msb then -floatMagnitude (bitsOf b.toNat 23 8) (bitsOf b.toNat 0 23)
    else floatMagnitude (bitsOf b.toNat 23 8) (bitsOf b.toNat 0 23) := rfl

/-! ## The magnitudes agree -/

theorem doubleMagnitude_zero : doubleMagnitude 0 0 = floatMagnitude 0 0 := by simp [doubleMagnitude, floatMagnitude]

/-- A normal value: the exponent is biased anew, and the fraction gets 29 zero bits. -/
theorem doubleMagnitude_normal {e : Nat} (he : e ≠ 0) (f : Nat) :
    doubleMagnitude (e + 896) (f * 2 ^ 29) = floatMagnitude e f := by
  have hexp : ((e + 896 : Nat) : Int) - 1075 = ((e : Int) - 150) - 29 := by push_cast; ring
  rw [doubleMagnitude, floatMagnitude, if_neg (by omega), if_neg he, hexp, zpow_sub₀ (by norm_num)]
  push_cast
  ring

/-- A subnormal value is normalised by its highest set bit. -/
theorem doubleMagnitude_subnormal {f k : Nat} (hk : k ≤ 52) (hf : 2 ^ k ≤ f) :
    doubleMagnitude (k + 874) ((f - 2 ^ k) * 2 ^ (52 - k)) = floatMagnitude 0 f := by
  have hfraction : 2 ^ 52 + (f - 2 ^ k) * 2 ^ (52 - k) = f * 2 ^ (52 - k) := by
    have htop : 2 ^ 52 = 2 ^ k * 2 ^ (52 - k) := by rw [← Nat.pow_add, Nat.add_sub_cancel' hk]
    rw [htop, ← Nat.add_mul, Nat.add_sub_cancel' hf]
  have hexp : ((k + 874 : Nat) : Int) - 1075 = -149 - ((52 - k : Nat) : Int) := by
    rw [Nat.cast_sub hk]
    push_cast
    ring
  rw [doubleMagnitude, floatMagnitude, if_neg (by omega), if_pos rfl, hfraction, hexp, zpow_sub₀ (by norm_num),
    zpow_natCast]
  push_cast
  rw [mul_assoc, mul_div_cancel₀ _ (by positivity)]

/-! ## The widening, case by case -/

section
variable {b : BitVec 32}

theorem fraction_lt (b : BitVec 32) : bitsOf b.toNat 0 23 < 2 ^ 23 := by
  rw [bitsOf_low]
  exact Nat.mod_lt _ (by norm_num)

theorem exponent_lt (b : BitVec 32) : bitsOf b.toNat 23 8 < 256 := Nat.mod_lt _ (by norm_num)

/-- A finite pattern becomes the finite pattern of the same sign and magnitude. -/
theorem widenFloat_of_finite (h : bitsOf b.toNat 23 8 ≠ 255) : ∃ e f, e < 2047 ∧ f < 2 ^ 52 ∧
    widenFloat b = doubleBits b.msb e f ∧
    doubleMagnitude e f = floatMagnitude (bitsOf b.toNat 23 8) (bitsOf b.toNat 0 23) := by
  have hfrac := fraction_lt b
  have hexp := exponent_lt b
  unfold widenFloat
  generalize bitsOf b.toNat 23 8 = e at h hexp ⊢
  generalize bitsOf b.toNat 0 23 = f at hfrac ⊢
  dsimp only
  rw [if_neg h]
  by_cases he : e = 0
  · subst he
    rw [if_pos rfl]
    by_cases hf : f = 0
    · subst hf
      rw [if_pos rfl]
      exact ⟨0, 0, by decide, by decide, rfl, doubleMagnitude_zero⟩
    · have hlow : 2 ^ f.log2 ≤ f := Nat.log2_self_le hf
      have hhigh : f < 2 ^ (f.log2 + 1) := Nat.lt_log2_self
      have hk : f.log2 < 23 := (Nat.log2_lt hf).mpr hfrac
      rw [if_neg hf]
      refine ⟨f.log2 + 874, (f - 2 ^ f.log2) * 2 ^ (52 - f.log2), by omega, ?_, rfl,
        doubleMagnitude_subnormal (by omega) hlow⟩
      calc (f - 2 ^ f.log2) * 2 ^ (52 - f.log2) < 2 ^ f.log2 * 2 ^ (52 - f.log2) :=
            Nat.mul_lt_mul_of_pos_right (by rw [Nat.pow_succ] at hhigh; omega) (by positivity)
        _ = 2 ^ 52 := by rw [← Nat.pow_add, Nat.add_sub_cancel' (by omega)]
  · rw [if_neg he]
    exact ⟨e + 896, f * 2 ^ 29, by omega, by omega, rfl, doubleMagnitude_normal he f⟩

/-- An infinity keeps its sign; a NaN becomes some NaN (log 14). -/
theorem widenFloat_of_special (h : bitsOf b.toNat 23 8 = 255) : ∃ sign f, f < 2 ^ 52 ∧
    widenFloat b = doubleBits sign 2047 f ∧ (f = 0 ↔ bitsOf b.toNat 0 23 = 0) ∧
    (bitsOf b.toNat 0 23 = 0 → sign = b.msb) := by
  rw [widenFloat, h]
  dsimp only
  rw [if_pos rfl]
  split
  case isTrue hf => exact ⟨b.msb, 0, by decide, rfl, by simp [hf], fun _ => rfl⟩
  case isFalse hf =>
    refine ⟨(Config.freeNaN b).msb, if (Config.freeNaN b).toNat % 2 ^ 52 = 0 then 1 else (Config.freeNaN b).toNat % 2 ^ 52,
      ?_, rfl, ?_, fun h => absurd h hf⟩
    · split
      · decide
      · exact Nat.mod_lt _ (by norm_num)
    · refine ⟨fun h => ?_, fun h => absurd h hf⟩
      split at h
      · cases h
      · next hne => exact absurd h hne

end

/-! ## The field -/

/-- Four bytes, least significant first, as one word. -/
theorem ofNat_leNat_four (b0 b1 b2 b3 : Byte) :
    BitVec.ofNat 32 (leNat [b0, b1, b2, b3]) = (b3 ++ b2 ++ b1 ++ b0 : BitVec 32) := by
  have join {m n : Nat} (x : BitVec m) (y : BitVec n) : (x ++ y).toNat = x.toNat * 2 ^ n + y.toNat := by
    rw [BitVec.toNat_append, ← Nat.shiftLeft_add_eq_or_of_lt y.isLt, Nat.shiftLeft_eq]
  have hlt : leNat [b0, b1, b2, b3] < 2 ^ 32 := leNat_lt _
  refine BitVec.eq_of_toNat_eq ?_
  rw [BitVec.toNat_ofNat, Nat.mod_eq_of_lt hlt, join, join, join]
  simp only [leNat]
  omega

/-- Settles O29: the field is read as one word, and `widenFloat` keeps sign and magnitude of a finite one. -/
theorem floatsWidenExactly : Obligations.FloatsWidenExactly := by
  rintro b0 b1 b2 b3 w s b rfl
  have hread : readData (0x5#8 : Byte).toNat .numeric ([b0, b1, b2, b3] ++ w) =
      .ok (.double (widenFloat (b3 ++ b2 ++ b1 ++ b0)), w) := by
    rw [readData_float, readFloat_append rfl, ofNat_leNat_four]
  generalize (b3 ++ b2 ++ b1 ++ b0 : BitVec 32) = b at hread ⊢
  refine ⟨widenFloat b, concludeField_ok hread (by rw [List.length_append, Nat.add_sub_cancel]; rfl), fun hfinite => ?finite, fun hspecial => ?special⟩
  case finite =>
    obtain ⟨e, f, he, hf, hwiden, hmagnitude⟩ := widenFloat_of_finite hfinite
    have he' : e < 2048 := by omega
    rw [hwiden, float64Value_doubleBits he' hf, float32Value_eq, hmagnitude, doubleBits_exponent he' hf,
      doubleBits_msb he' hf]
    exact ⟨rfl, by omega, rfl⟩
  case special =>
    obtain ⟨sign, f, hf, hwiden, hzero, hsign⟩ := widenFloat_of_special hspecial
    rw [bitsOf_low] at hzero hsign
    rw [hwiden, doubleBits_exponent (by decide) hf, doubleBits_fraction (by decide) hf, doubleBits_msb (by decide) hf]
    exact ⟨rfl, hzero, hsign⟩

end Sys2Proof.Machine

/-! Data records: DR.SCALE and DR.DEC (42_data_record.md R191 to R195, R210). -/

namespace Sys2Proof.Machine

/-! ## Scaling (R210, R211) -/

theorem exec_drScale (x : RecRef) (s : State) : exec (.drScale x) s = execDrScale x s := rfl

section
variable {x : RecRef} {r : DataRecord} {s : State}

theorem execDrScale_of_ok {v : Scaled} (hr : recAt s x = .ok r) (h : scaledValue r = .ok v) :
    execDrScale x s = .next (s.respond (.scaled v)) := by
  rw [execDrScale, hr]
  exact conclude_map_ok h

theorem execDrScale_of_refused {e : Refusal} (hr : recAt s x = .ok r) (h : scaledValue r = .error (.refused e)) :
    execDrScale x s = .refused e := by
  rw [execDrScale, hr]
  exact conclude_map_refused h

end

theorem scaleBy10_eq (n : Int) (d : Nat) (e : Int) : scaleBy10 n d e = (n : ℚ) / d * (10 : ℚ) ^ e := by
  rw [scaleBy10]
  split
  case isTrue he =>
    obtain ⟨k, rfl⟩ := Int.eq_ofNat_of_zero_le he
    rw [Rat.mkRat_eq_div, Int.toNat_natCast, zpow_natCast]
    push_cast
    ring
  case isFalse he =>
    obtain ⟨k, hk⟩ := Int.eq_ofNat_of_zero_le (show 0 ≤ -e by omega)
    obtain rfl : e = -(k : Int) := by omega
    rw [Rat.mkRat_eq_div, neg_neg, Int.toNat_natCast, zpow_neg, zpow_natCast]
    push_cast
    rw [← div_div, div_eq_mul_inv _ ((10 : ℚ) ^ k)]

/-- A binary exponent at least 1075 multiplies, one below it divides. -/
theorem scaleBinary_eq (n : Int) (k : Nat) (e : Int) :
    (if 1075 ≤ k then scaleBy10 (n * 2 ^ (k - 1075)) 1 e else scaleBy10 n (2 ^ (1075 - k)) e) =
      (n : ℚ) * 2 ^ ((k : Int) - 1075) * (10 : ℚ) ^ e := by
  split
  case isTrue hk =>
    obtain ⟨j, rfl⟩ := Nat.exists_eq_add_of_le hk
    rw [scaleBy10_eq, Nat.add_sub_cancel_left, show ((1075 + j : Nat) : Int) - 1075 = j by push_cast; ring, zpow_natCast]
    push_cast
    ring
  case isFalse hk =>
    obtain ⟨j, hj⟩ := Nat.exists_eq_add_of_le (Nat.le_of_not_le hk)
    have hexp : (k : Int) - 1075 = -(j : Int) := by omega
    rw [scaleBy10_eq, hexp, hj, Nat.add_sub_cancel_left,
      zpow_neg, zpow_natCast]
    push_cast
    rw [div_eq_mul_inv]

/-- The signed significand of a finite binary64 pattern. -/
def doubleSignificand (d : BitVec 64) : Int :=
  let m : Nat := if bitsOf d.toNat 52 11 = 0 then bitsOf d.toNat 0 52 else 2 ^ 52 + bitsOf d.toNat 0 52
  if d.msb then -(m : Int) else m

/-- Its binary exponent, biased by 1075. -/
def doubleExponent (d : BitVec 64) : Nat := if bitsOf d.toNat 52 11 = 0 then 1 else bitsOf d.toNat 52 11

theorem float64Value_eq (d : BitVec 64) :
    float64Value d = (doubleSignificand d : ℚ) * 2 ^ ((doubleExponent d : Int) - 1075) := by
  unfold float64Value doubleSignificand doubleExponent
  generalize bitsOf d.toNat 52 11 = e
  generalize bitsOf d.toNat 0 52 = f
  have hsign (m : Nat) : (((if d.msb then -(m : Int) else m : Int)) : ℚ) = if d.msb then -(m : ℚ) else m := by
    split
    · push_cast
      rfl
    · rfl
  dsimp only
  rw [hsign]
  by_cases he : e = 0
  · subst he
    rw [if_pos rfl, if_pos rfl, if_pos rfl, ite_mul, neg_mul]
    rfl
  · rw [if_neg he, if_neg he, if_neg he, ite_mul, neg_mul]

theorem scaleDouble_of_finite {d : BitVec 64} (h : bitsOf d.toNat 52 11 ≠ 2047) (e : Int) :
    scaleDouble d e = .rational (float64Value d * (10 : ℚ) ^ e) := by
  rw [float64Value_eq, ← scaleBinary_eq]
  exact if_neg h

/-- Settles O30: by the kind of the value. -/
theorem drScaleIsExact : Obligations.DrScaleIsExact := by
  intro x r s hr
  rw [exec_drScale]
  have scaled {v : Scaled} (h : scaledValue r = .ok v) : execDrScale x s = .next (s.respond (.scaled v)) :=
    execDrScale_of_ok hr h
  have integer (v : Int) (e : Int) : scaleBy10 v 1 e = (v : ℚ) * (10 : ℚ) ^ e := by
    rw [scaleBy10_eq, Nat.cast_one, div_one]
  refine ⟨fun v hv => scaled ?long, fun b hb hlow hhigh => scaled ?bcd, fun b hb hover => ?bcdOver,
    fun d hd hfinite => scaled ?double, fun d hd hspecial => scaled ?special, ?unscaled, fun hnone => scaled ?none⟩
  case long => rw [scaledValue, hv, ← integer]
  case bcd =>
    have hfits : fitsSigned 64 (bcdValue b) = true := fitsSigned_iff.mpr ⟨hlow, by omega⟩
    have hvalue := toInt_ofInt_of_fitsSigned (by decide) hfits
    rw [scaledValue, hb, ← integer]
    dsimp only
    rw [bcdLong_of_fits hfits]
    exact congrArg (fun v => (.ok (.rational (scaleBy10 v 1 r.multiplierExponent.toInt)) : Run Scaled)) hvalue
  case bcdOver =>
    have hover' : ¬fitsSigned 64 (bcdValue b) = true := fun h => by have := fitsSigned_iff.mp h; omega
    refine execDrScale_of_refused hr ?_
    rw [scaledValue, hb]
    dsimp only
    rw [bcdLong_of_not_fits hover']
    rfl
  case double => rw [scaledValue, hd, ← scaleDouble_of_finite hfinite]
  case special =>
    rw [scaledValue, hd]
    dsimp only
    rw [scaleDouble]
    exact congrArg _ (if_pos hspecial)
  case unscaled => rintro (⟨d, hd⟩ | ⟨d, hd⟩ | ⟨cs, hd⟩) <;> exact scaled (by rw [scaledValue, hd])
  case none => rw [scaledValue, hnone]

/-! ## DR.DEC -/

theorem exec_drDec (buf : Bytes) (p n : Nat) (s : State) : exec (.drDec buf p n) s = execDrDec buf p n s := rfl
theorem exec_fDib (buf : Bytes) (s : State) : exec (.fDib buf) s = execFDib buf s := rfl

section
variable {buf : Bytes} {p n : Nat} {s : State}

theorem execDrDec_of_ok {r : DataRecord} {next : Nat} (h : recordAt s.params buf p n = .ok (r, next)) :
    execDrDec buf p n s = .next ((s.addRec r).respond (.record s.recs.length next)) := by
  rw [execDrDec, h]
  rfl

theorem execDrDec_of_error {c : Cause} (h : recordAt s.params buf p n = .error c) :
    execDrDec buf p n s = .next (s.raise c) := by
  rw [execDrDec, h]
  rfl

end

/-- A block alone is read as a DIB (R193). -/
theorem exec_fDib_of_chained {dib : Bytes} (h : Chained dib) (back : Bytes) (s : State) :
    exec (.fDib (dib ++ back)) s = .next (s.respond (.fields (.dib (dibFields dib)))) := by
  rw [exec_fDib, execFDib, chain_ok.mpr ⟨h, rfl⟩]
  rfl

/-- A chain whose every byte announces another one reaches the bound (R192). -/
theorem chain_of_all_extended {w : Bytes} (h : ∀ b ∈ w, 128 ≤ b.toNat) : chain w = .error .truncatedBuffer := by
  cases hw : chain w with
  | error c => rw [chain_error hw]
  | ok x =>
    obtain ⟨c, r⟩ := x
    obtain ⟨hc, rfl⟩ := chain_ok.mp hw
    exfalso
    induction c with
    | nil => exact hc
    | cons b c ih =>
      have hb : 128 ≤ b.toNat := h b (by simp)
      cases c with
      | nil => exact absurd hc (Nat.not_lt.mpr hb)
      | cons y c => exact ih hc.2 (fun x hx => h x (List.mem_cons_of_mem b hx)) (chain_ok.mpr ⟨hc.2, rfl⟩)

/-- The record of a DIB, a VIB with this entry, and a value (R193, R194). -/
def recordOf (p : Params) (dib vib : Bytes) (e : VifEntry) (v : DataValue) : DataRecord where
  dib := dib
  vib := vib
  functionField := (dibFields dib).functionField
  storageNumber := (dibFields dib).storageNumber
  tariff := (dibFields dib).tariff
  subunit := (dibFields dib).subunit
  description := e.description
  unit := unitOf p e.unit
  multiplierExponent := e.multiplierExponent
  dataValue := v

section
variable {p : Params} {dib vib : Bytes} {e : VifEntry}

/-- DR.DEC of a DIB and a VIB of the table is the reader of the data field (R191). -/
theorem readRecord_of_blocks (hdib : Chained dib) (hvib : Chained vib) (he : vifLookup p vib = .ok e) (field : Bytes) :
    readRecord p (dib ++ vib ++ field) = (do
      let (v, w) ← readData (dibFields dib).code e.hint field
      .ok (recordOf p dib vib e v, w)) := by
  rw [readRecord, List.append_assoc, chain_ok.mpr ⟨hdib, rfl⟩]
  show (chain (vib ++ field) >>= _) = _
  rw [chain_ok.mpr ⟨hvib, rfl⟩]
  show (vifLookup p vib >>= _) = _
  rw [he]
  rfl

/-- A VIB without an entry is an error before the data field is read (decision D11). -/
theorem readRecord_of_unknown_vib (hdib : Chained dib) (hvib : Chained vib) {c : Cause} (he : vifLookup p vib = .error c)
    (field : Bytes) : readRecord p (dib ++ vib ++ field) = .error c := by
  rw [readRecord, List.append_assoc, chain_ok.mpr ⟨hdib, rfl⟩]
  show (chain (vib ++ field) >>= _) = _
  rw [chain_ok.mpr ⟨hvib, rfl⟩]
  show (vifLookup p vib >>= _) = _
  rw [he]
  rfl

end

section
variable {p : Params} {front w back : Bytes}

/-- DR.DEC of a window is the reader at the cursor; the offset it answers is that of the first byte left. -/
theorem recordAt_between_ok {r : DataRecord} {rest : Bytes} (h : readRecord p w = .ok (r, rest)) :
    recordAt p (front ++ w ++ back) front.length w.length = .ok (r, front.length + w.length - rest.length) :=
  Dec.bind_ok.mpr ⟨w, window_between front w back, Dec.bind_ok.mpr ⟨_, h, rfl⟩⟩

theorem recordAt_between_error {c : Cause} (h : readRecord p w = .error c) :
    recordAt p (front ++ w ++ back) front.length w.length = .error c :=
  Dec.bind_error.mpr (.inr ⟨w, window_between front w back, Dec.bind_error.mpr (.inl h)⟩)

end

/-- A window with no byte that ends the DIB. -/
theorem recordAt_truncated {p : Params} {buf : Bytes} {off n : Nat}
    (h : n = 0 ∨ buf.length < off + n ∨ ∀ k, off ≤ k → k < off + n → 128 ≤ (byteAt buf k).toNat) :
    recordAt p buf off n = .error .truncatedBuffer := by
  by_cases hlen : buf.length < off + n
  · exact Dec.bind_error.mpr (.inl (window_error.mpr ⟨hlen, rfl⟩))
  · have hall : ∀ b ∈ (buf.drop off).take n, 128 ≤ b.toNat := by
      intro b hb
      obtain ⟨k, hk, rfl⟩ := List.mem_iff_getElem.mp hb
      rw [List.length_take, List.length_drop] at hk
      obtain rfl | hshort | hext := h
      · omega
      · exact absurd hshort hlen
      · have hbyte := hext (off + k) (by omega) (by omega)
        rw [byteAt, List.getD_eq_getElem _ _ (by omega)] at hbyte
        rw [List.getElem_take, List.getElem_drop]
        exact hbyte
    exact Dec.bind_error.mpr (.inr ⟨_, window_ok.mpr ⟨Nat.le_of_not_lt hlen, rfl⟩,
      Dec.bind_error.mpr (.inl (Dec.bind_error.mpr (.inl (chain_of_all_extended hall))))⟩)

/-- The code of the data field is the low half of the DIF (R193). -/
theorem dibFields_code (dib : Bytes) : (dibFields dib).code = (byteAt dib 0).toNat % 16 := bitsOf_low _ 4

theorem toNat_and_low (b : Byte) : (b &&& 0x0F#8).toNat = b.toNat % 16 := by
  rw [BitVec.toNat_and]
  exact Nat.and_two_pow_sub_one_eq_mod b.toNat 4

theorem vifLookup_of_find {p : Params} {vib : Bytes} {e : Bytes × VifEntry}
    (h : p.viftab.find? (fun x => x.1 == vib) = some e) : vifLookup p vib = .ok e.2 := by
  rw [vifLookup, h]

theorem vifLookup_of_absent {p : Params} {vib : Bytes} (h : ∀ e ∈ p.viftab, e.1 ≠ vib) :
    vifLookup p vib = .error .unrecognisedDifVif := by
  have hnone : p.viftab.find? (fun x => x.1 == vib) = none :=
    List.find?_eq_none.mpr fun e he => by simpa using h e he
  rw [vifLookup, hnone]

/-- A field that F-DATA fails on fails for the same cause at the cursor. -/
theorem readData_of_fData_raised {code : Byte} {hint : Hint} {field : Bytes} {s : State} {c : Cause}
    (h : exec (.fData code hint field) s = .next (s.raise c)) : readData code.toNat hint field = .error c := by
  rw [exec_fData] at h
  cases hread : readData code.toNat hint field with
  | error c' =>
    rw [concludeField_error hread] at h
    rw [next_raise_inj h]
  | ok x =>
    rw [concludeField_ok (v := x.1) (rest := x.2) hread rfl] at h
    exact absurd h (next_respond_ne_raise _ _)

/-- Settles O27: the two blocks, then the data field as F-DATA reads it. -/
theorem drDecReadsARecord : Obligations.DrDecReadsARecord := by
  refine ⟨fun front dib vib field back e s hdib hvib he => ?record,
    fun buf p n s h => execDrDec_of_error (recordAt_truncated h), fun dib vib field s hdib hvib habsent => ?unknown⟩
  case record =>
    have hlen : (dib ++ vib ++ field).length = dib.length + vib.length + field.length := by
      rw [List.length_append, List.length_append]
    have hbuf : front ++ dib ++ vib ++ field ++ back = front ++ (dib ++ vib ++ field) ++ back := by
      simp only [List.append_assoc]
    have hcode : (byteAt dib 0 &&& 0x0F#8).toNat = (dibFields dib).code := by rw [toNat_and_low, dibFields_code]
    have hread := readRecord_of_blocks hdib hvib (vifLookup_of_find he) field
    rw [hbuf, ← hlen, exec_drDec, ← dibFields_code]
    refine ⟨fun used hfield => ?read, fun c hc => execDrDec_of_error (recordAt_between_error ?fails)⟩
    case read =>
      obtain ⟨hused, -⟩ := id hfield
      obtain ⟨v, hv⟩ := readData_field hfield
      rw [hv] at hread
      have hanswer := execDrDec_of_ok (s := s) (recordAt_between_ok (front := front) (back := back) hread)
      have hnext : front.length + (dib ++ vib ++ field).length - (field.drop used).length =
          front.length + dib.length + vib.length + used := by
        rw [hlen, List.length_drop]
        omega
      rw [hnext] at hanswer
      have hdibRow := exec_fDib_of_chained hdib [] s
      rw [List.append_nil] at hdibRow
      refine ⟨v, recordOf s.params dib vib e.2 v, ?_, hanswer, rfl, rfl, rfl, rfl, rfl, rfl, dibFields dib, hdibRow, rfl, rfl,
        rfl, rfl⟩
      rw [← hcode] at hv
      exact concludeField_ok hv (by rw [List.length_drop]; omega)
    case fails =>
      have hc' := readData_of_fData_raised hc
      rw [hcode] at hc'
      rw [hread, hc']
      rfl
  case unknown =>
    have hfails := readRecord_of_unknown_vib hdib hvib (vifLookup_of_absent habsent) field
    have hat := recordAt_between_error (front := []) (back := []) hfails
    rw [List.append_nil, List.length_append, List.length_append] at hat
    exact execDrDec_of_error hat

end Sys2Proof.Machine

/-! The record loop, turn by turn (44_vds.md R300 to R305). -/

namespace Sys2Proof.Machine

/-! ## Readers at the cursor leave a rest of what they read from -/

/-- What the reader leaves, if it has a value, is the end of `w`. -/
def LeavesSuffix {α : Type} (r : Dec (α × Bytes)) (w : Bytes) : Prop := ∀ a rest, r = .ok (a, rest) → rest <:+ w

section
variable {α β : Type} {w : Bytes}

theorem LeavesSuffix.ok (a : α) (w : Bytes) : LeavesSuffix (.ok (a, w)) w := by
  rintro _ _ ⟨⟩
  exact List.suffix_refl w

theorem LeavesSuffix.error (c : Cause) (w : Bytes) : LeavesSuffix (.error c : Dec (α × Bytes)) w := fun _ _ h => nomatch h

theorem LeavesSuffix.bind {r : Dec (α × Bytes)} {f : α × Bytes → Dec (β × Bytes)} (h : LeavesSuffix r w)
    (hf : ∀ a rest, LeavesSuffix (f (a, rest)) rest) : LeavesSuffix (r >>= f) w := by
  intro b rest hb
  obtain ⟨⟨a, mid⟩, ha, hb⟩ := Dec.bind_ok.mp hb
  exact (hf a mid b rest hb).trans (h a mid ha)

/-- A part that reads nothing. -/
theorem LeavesSuffix.bind_value {r : Dec α} {f : α → Dec (β × Bytes)} (hf : ∀ a, LeavesSuffix (f a) w) :
    LeavesSuffix (r >>= f) w := by
  intro b rest hb
  obtain ⟨a, -, hb⟩ := Dec.bind_ok.mp hb
  exact hf a b rest hb

end

theorem memRead_leavesSuffix (n : Nat) (w : Bytes) : LeavesSuffix (memRead n w) w := by
  intro bs rest h
  obtain ⟨rfl, -⟩ := memRead_ok.mp h
  exact List.suffix_append bs rest

theorem readLong_leavesSuffix (n : Nat) (w : Bytes) : LeavesSuffix (readLong n w) w :=
  (memRead_leavesSuffix n w).bind fun _ _ => .ok _ _

theorem readFloat_leavesSuffix (w : Bytes) : LeavesSuffix (readFloat w) w :=
  (memRead_leavesSuffix 4 w).bind fun _ _ => .ok _ _

theorem readDateG_leavesSuffix (w : Bytes) : LeavesSuffix (readDateG w) w :=
  (memRead_leavesSuffix 2 w).bind fun _ _ => .ok _ _

theorem readDateF_leavesSuffix (w : Bytes) : LeavesSuffix (readDateF w) w :=
  (memRead_leavesSuffix 4 w).bind fun _ _ => .ok _ _

theorem readBcd_leavesSuffix (n : Nat) (w : Bytes) : LeavesSuffix (readBcd n w) w :=
  (memRead_leavesSuffix n w).bind fun _ _ => .bind_value fun _ => .ok _ _

theorem readString_leavesSuffix (w : Bytes) : LeavesSuffix (readString w) w := by
  refine LeavesSuffix.bind (fun b rest h => ?_) fun lvar rest => ?_
  · rw [memReadByte_ok.mp h]
    exact List.suffix_cons b rest
  · dsimp only
    split
    · exact .error _ _
    · exact (memRead_leavesSuffix _ _).bind fun _ _ => .ok _ _

/-- The data field, row by row of R196 and R204. -/
theorem readData_leavesSuffix (code : Nat) (hint : Hint) (w : Bytes) : LeavesSuffix (readData code hint w) w := by
  unfold readData
  cases hint with
  | date =>
    dsimp only
    split
    · exact readDateG_leavesSuffix w
    · split
      · exact readDateF_leavesSuffix w
      · exact .error _ _
  | numeric =>
    dsimp only
    split
    exacts [.ok _ _, .ok _ _, readString_leavesSuffix w, readLong_leavesSuffix 1 w, readLong_leavesSuffix 2 w,
      readLong_leavesSuffix 3 w, readLong_leavesSuffix 4 w, readFloat_leavesSuffix w, readLong_leavesSuffix 6 w,
      readLong_leavesSuffix 8 w, readBcd_leavesSuffix 1 w, readBcd_leavesSuffix 2 w, readBcd_leavesSuffix 3 w,
      readBcd_leavesSuffix 4 w, readBcd_leavesSuffix 6 w, .error _ _]

/-- A record takes at least its DIF from the front. -/
theorem readRecord_takes {p : Params} {w rest : Bytes} {r : DataRecord} (h : readRecord p w = .ok (r, rest)) :
    rest <:+ w ∧ rest.length < w.length := by
  obtain ⟨⟨dib, mid⟩, hdib, hrest⟩ := Dec.bind_ok.mp h
  obtain ⟨hchained, rfl⟩ := chain_ok.mp hdib
  have hmid : LeavesSuffix (do
      let (vib, w) ← chain mid
      let e ← vifLookup p vib
      let (v, w) ← readData (dibFields dib).code e.hint w
      .ok (recordOf p dib vib e v, w)) mid := by
    refine LeavesSuffix.bind (fun vib left hvib => ?_) fun vib left =>
      .bind_value fun e => (readData_leavesSuffix _ _ _).bind fun _ _ => .ok _ _
    obtain ⟨-, rfl⟩ := chain_ok.mp hvib
    exact List.suffix_append vib left
  have hsuffix : rest <:+ mid := hmid r rest hrest
  have hpos : 0 < dib.length := List.length_pos_iff.mpr (by rintro rfl; exact hchained)
  refine ⟨hsuffix.trans (List.suffix_append dib mid), ?_⟩
  have hle := hsuffix.length_le
  rw [List.length_append]
  omega

/-! ## The loop as a function of what is left -/

/-- One turn of the loop, which goes on as `go` does. -/
def recordTurn (p : Params) (go : Bytes → Dec RecordList) (w : Bytes) : Dec RecordList :=
  if w.length < p.vdsTail + p.vdsMinBeforeTail then
    .ok { records := [], manufacturerData := [], moreRecordsFollow := false }
  else do
    let (x, rest) ← memReadByte w
    match specialByte x with
    | .fill => go rest
    | .marker more =>
      .ok { records := [], manufacturerData := rest.take (rest.length - p.vdsTail), moreRecordsFollow := more }
    | .dif =>
      let (r, rest) ← readRecord p w
      let l ← go rest
      .ok { l with records := r :: l.records }

theorem recordLoop_succ (p : Params) (fuel : Nat) (w : Bytes) :
    recordLoop p (fuel + 1) w = recordTurn p (recordLoop p fuel) w := rfl

/-- A turn leaves less than it started with. -/
theorem recordTurn_congr {p : Params} {go go' : Bytes → Dec RecordList} {w : Bytes}
    (h : ∀ rest, rest.length < w.length → go rest = go' rest) : recordTurn p go w = recordTurn p go' w := by
  unfold recordTurn
  split
  · rfl
  · match w, h with
    | [], _ => rfl
    | x :: rest, h =>
      show (match specialByte x with | .fill => _ | .marker more => _ | .dif => _) =
        (match specialByte x with | .fill => _ | .marker more => _ | .dif => _)
      cases specialByte x with
      | fill => exact h rest (by simp)
      | marker more => rfl
      | dif =>
        cases hr : readRecord p (x :: rest) with
        | error c => rfl
        | ok y =>
          obtain ⟨r, left⟩ := y
          show (go left >>= _) = (go' left >>= _)
          rw [h left (readRecord_takes hr).2]

/-- Fuel beyond the bytes left changes nothing. -/
theorem recordLoop_fuel (p : Params) {m n : Nat} {w : Bytes} (hm : w.length < m) (hn : w.length < n) :
    recordLoop p m w = recordLoop p n w := by
  induction m generalizing n w with
  | zero => omega
  | succ m ih =>
    cases n with
    | zero => omega
    | succ n =>
      rw [recordLoop_succ, recordLoop_succ]
      exact recordTurn_congr fun rest hrest => ih (by omega) (by omega)

/-- The record list is its first turn, and then the record list of what that leaves (R300). -/
theorem readRecords_eq (p : Params) (w : Bytes) : readRecords p w = recordTurn p (readRecords p) w := by
  rw [readRecords, recordLoop_succ]
  exact recordTurn_congr fun rest hrest => recordLoop_fuel p hrest (Nat.lt_succ_self _)

/-! ## The turns -/

theorem specialByte_dif : ∀ x : Byte, x ≠ 0x2F#8 → x ≠ 0x0F#8 → x ≠ 0x1F#8 → specialByte x = .dif := by decide

section
variable {p : Params} {x : Byte} {w : Bytes}

theorem readRecords_of_short (h : w.length < p.vdsTail + p.vdsMinBeforeTail) :
    readRecords p w = .ok { records := [], manufacturerData := [], moreRecordsFollow := false } := by
  rw [readRecords_eq]
  exact if_pos h

/-- A turn with enough bytes left goes by its byte. -/
theorem readRecords_cons (h : p.vdsTail + p.vdsMinBeforeTail ≤ w.length + 1) :
    readRecords p (x :: w) =
      match specialByte x with
      | .fill => readRecords p w
      | .marker more =>
        .ok { records := [], manufacturerData := w.take (w.length - p.vdsTail), moreRecordsFollow := more }
      | .dif => (do
        let (r, rest) ← readRecord p (x :: w)
        let l ← readRecords p rest
        .ok { l with records := r :: l.records }) := by
  rw [readRecords_eq]
  exact if_neg (Nat.not_lt.mpr h)

theorem readRecords_fill (h : p.vdsTail + p.vdsMinBeforeTail ≤ w.length + 1) :
    readRecords p (0x2F#8 :: w) = readRecords p w := readRecords_cons h

theorem readRecords_marker {more : Bool} (hx : x = if more then 0x1F#8 else 0x0F#8)
    (h : p.vdsTail + p.vdsMinBeforeTail ≤ w.length + 1) :
    readRecords p (x :: w) =
      .ok { records := [], manufacturerData := w.take (w.length - p.vdsTail), moreRecordsFollow := more } := by
  have hspecial : specialByte x = .marker more := by
    rw [hx]
    cases more <;> decide
  rw [readRecords_cons h, hspecial]

theorem readRecords_dif (hx : specialByte x = .dif) (h : p.vdsTail + p.vdsMinBeforeTail ≤ w.length + 1) :
    readRecords p (x :: w) = (do
      let (r, rest) ← readRecord p (x :: w)
      let l ← readRecords p rest
      .ok { l with records := r :: l.records }) := by
  rw [readRecords_cons h, hx]

end

/-- DR.DEC of a whole buffer is the reader at the cursor. -/
theorem recordAt_whole (p : Params) (w : Bytes) : recordAt p w 0 w.length = (do
    let (r, rest) ← readRecord p w
    .ok (r, w.length - rest.length)) := by
  have hwhole : window w 0 w.length = .ok w := window_ok.mpr ⟨by omega, by simp⟩
  rw [recordAt, hwhole, Nat.zero_add]
  rfl

/-- Settles O39: `readRecords_cons`, with the record that DR.DEC answers on the same bytes. -/
theorem recordLoopTurns : Obligations.RecordLoopTurns := by
  intro x w s h
  have hdec : exec (.drDec (x :: w) 0 (w.length + 1)) s =
      execDrDec (x :: w) 0 (x :: w).length s := exec_drDec _ _ _ s
  refine ⟨fun hx => ?fill, fun hx => ⟨w.take (w.length - s.params.vdsTail), ?marker⟩, fun hfill hlast hmore => ?record⟩
  case fill => rw [hx, readRecords_fill h]
  case marker =>
    obtain rfl | rfl := hx
    · exact readRecords_marker (more := false) rfl h
    · exact readRecords_marker (more := true) rfl h
  case record =>
    rw [readRecords_dif (specialByte_dif x hfill hlast hmore) h, hdec]
    cases hr : readRecord s.params (x :: w) with
    | error c =>
      have hat : recordAt s.params (x :: w) 0 (x :: w).length = .error c := by rw [recordAt_whole, hr]; rfl
      rw [execDrDec_of_error hat]
      exact ⟨fun c' hc => congrArg _ (next_raise_inj hc), fun r next h => absurd h.symm (next_respond_ne_raise _ _)⟩
    | ok y =>
      obtain ⟨r, rest⟩ := y
      obtain ⟨⟨taken, hsplit⟩, hlt⟩ := readRecord_takes hr
      have hat : recordAt s.params (x :: w) 0 (x :: w).length = .ok (r, (x :: w).length - rest.length) := by
        rw [recordAt_whole, hr]; rfl
      rw [execDrDec_of_ok hat]
      refine ⟨fun c' hc => absurd hc (next_respond_ne_raise _ _), fun r' next hnext => ?_⟩
      · have hrecs := congrArg State.recs (Host.Outcome.next.inj hnext)
        obtain rfl : r = r' := List.singleton_inj.mp (List.append_cancel_left hrecs)
        obtain ⟨-, rfl⟩ := Value.record.inj (next_respond_inj hnext)
        have hdrop : (x :: w).drop ((x :: w).length - rest.length) = rest := by
          rw [← hsplit, List.length_append, Nat.add_sub_cancel, List.drop_left]
        rw [hdrop]
        refine ⟨by omega, fun c hc => ?_, fun l hl => ?_⟩
        · show (readRecords s.params rest >>= _) = _
          rw [hc]
          rfl
        · show (readRecords s.params rest >>= _) = _
          rw [hl]
          rfl

/-- Settles O40: the marker's turn, after the turns of the fill bytes. -/
theorem manufacturerDataEndsTheList : Obligations.ManufacturerDataEndsTheList := by
  refine fun p k more w => ⟨fun h => ?marked, readRecords_of_short⟩
  case marked =>
    induction k with
    | zero => exact readRecords_marker rfl h
    | succ k ih =>
      rw [List.replicate_succ, List.cons_append, readRecords_fill, ih]
      rw [List.length_append, List.length_cons]
      omega

end Sys2Proof.Machine

/-! VDS.DEC under the three CI values it decodes (44_vds.md R286 to R295). -/

namespace Sys2Proof.Machine

/-! ## Headers -/

/-- The four bytes of a short header, by their fields (decision D20). -/
theorem shortHeaderOf_bytes (acc st c0 c1 : Byte) : shortHeaderOf [acc, st, c0, c1] =
    { accessNumber := acc, status := st, numberOfEncryptedBlocks := c0 >>> 4, encryptionMode := encModeOf (c1.toNat % 16) } := by
  have hblocks : BitVec.ofNat 8 (hi c0) = c0 >>> 4 := by
    refine BitVec.eq_of_toNat_eq ?_
    have hc0 := c0.isLt
    rw [BitVec.toNat_ofNat, BitVec.toNat_ushiftRight, Nat.shiftRight_eq_div_pow, hi]
    omega
  show ShortHeader.mk acc st (BitVec.ofNat 8 (hi c0)) (encModeOf (lo c1)) = _
  rw [hblocks]
  rfl

theorem readShortHeader_bytes (acc st c0 c1 : Byte) (w : Bytes) :
    readShortHeader ([acc, st, c0, c1] ++ w) = .ok ({
      accessNumber := acc, status := st, numberOfEncryptedBlocks := c0 >>> 4,
      encryptionMode := encModeOf (c1.toNat % 16) }, w) := by
  rw [← shortHeaderOf_bytes]
  exact Dec.bind_ok.mpr ⟨_, memRead_append_of_length rfl w, rfl⟩

theorem toNat_shiftRight_four (c : Byte) : (c >>> 4).toNat = c.toNat / 16 := by
  rw [BitVec.toNat_ushiftRight, Nat.shiftRight_eq_div_pow]

theorem encModeOf_of_reserved {id : Nat} (h0 : id ≠ 0) (h5 : id ≠ 5) : encModeOf id = .reserved (BitVec.ofNat 4 id) := by
  rw [encModeOf, if_neg h0, if_neg h5]

/-- A mode that CI 72 accepts (decision D21). -/
theorem encModeOf_of_known {id : Nat} (h : id = 0 ∨ id = 5) : encModeOf id = if id = 0 then .none else .aesCbcIv := by
  obtain rfl | rfl := h <;> rfl

/-- An address that SA.LH makes of 8 bytes is read from the front of any others. -/
theorem readSaLh_of_saLhAt {raw : Bytes} {a : SecondaryAddress} (hraw : raw.length = 8) (h : saLhAt raw 0 = .ok a)
    (w : Bytes) : readSaLh (raw ++ w) = .ok (a, w) := by
  have hmake := saLhAt_between [] [] hraw
  rw [List.nil_append, List.append_nil, List.length_nil, h] at hmake
  exact Dec.bind_ok.mpr ⟨_, memRead_append_of_length hraw w, Dec.bind_ok.mpr ⟨a, hmake.symm, rfl⟩⟩

/-- What the row of SA.LH answers is what it reads. -/
theorem saLhAt_of_exec {buf : Bytes} {p : Nat} {a : SecondaryAddress} {s : State}
    (h : exec (.saLh buf p) s = .next ((s.addAddr a).respond (.address s.addrs.length))) : saLhAt buf p = .ok a := by
  rw [exec_saLh] at h
  cases hread : saLhAt buf p with
  | error c =>
    rw [concludeAddr_ofDec_error hread] at h
    exact absurd h.symm (next_respond_ne_raise _ _)
  | ok b =>
    rw [concludeAddr_ofDec_ok hread] at h
    have haddrs := congrArg State.addrs (Host.Outcome.next.inj h)
    rw [List.singleton_inj.mp (List.append_cancel_left haddrs)]

theorem readLongHeader_bytes {raw : Bytes} {a : SecondaryAddress} (hraw : raw.length = 8) (h : saLhAt raw 0 = .ok a)
    (acc st c0 c1 : Byte) (w : Bytes) :
    readLongHeader (raw ++ ([acc, st, c0, c1] ++ w)) = .ok (a, {
      accessNumber := acc, status := st, numberOfEncryptedBlocks := c0 >>> 4,
      encryptionMode := encModeOf (c1.toNat % 16) }, w) :=
  Dec.bind_ok.mpr ⟨_, readSaLh_of_saLhAt hraw h _, Dec.bind_ok.mpr ⟨_, readShortHeader_bytes acc st c0 c1 w, rfl⟩⟩

/-! ## The branches of the CI dispatch -/

theorem vdsByCi_long (p : Params) (m : KeyMap) (v : Vds) (w : Bytes) : vdsByCi p m v 0x72#8 w = vdsLong p v w := rfl
theorem vdsByCi_none (p : Params) (m : KeyMap) (v : Vds) (w : Bytes) : vdsByCi p m v 0x78#8 w = vdsNone p v w := rfl
theorem vdsByCi_short (p : Params) (m : KeyMap) (v : Vds) (w : Bytes) : vdsByCi p m v 0x7A#8 w = vdsShort p m v w := rfl

section
variable {p : Params} {m : KeyMap} {v : Vds} {w w' : Bytes} {h : ShortHeader}

theorem vdsNone_of_records {l : RecordList} (hl : readRecords p w = .ok l) : vdsNone p v w = .ok (v.withRecords l) :=
  Dec.bind_ok.mpr ⟨l, hl, rfl⟩

theorem vdsLong_of_records {a : SecondaryAddress} {l : RecordList} (hh : readLongHeader w = .ok (a, h, w'))
    (hmode : h.encryptionMode.isReserved = false) (hl : readRecords p w' = .ok l) :
    vdsLong p v w = .ok ({ v.withHeader h with secondaryAddress := some a }.withRecords l) := by
  refine Dec.bind_ok.mpr ⟨_, hh, ?_⟩
  dsimp only
  rw [hmode]
  exact Dec.bind_ok.mpr ⟨l, hl, rfl⟩

theorem vdsLong_of_reserved {a : SecondaryAddress} (hh : readLongHeader w = .ok (a, h, w'))
    (hmode : h.encryptionMode.isReserved = true) : vdsLong p v w = .error .unsupportedEncryptionMode :=
  Dec.bind_error.mpr (.inr ⟨_, hh, if_pos hmode⟩)

theorem vdsShort_of_plain {l : RecordList} (hh : readShortHeader w = .ok (h, w')) (hmode : h.encryptionMode = .none)
    (hl : readRecords p w' = .ok l) : vdsShort p m v w = .ok ((v.withHeader h).withRecords l) := by
  refine Dec.bind_ok.mpr ⟨_, hh, ?_⟩
  dsimp only
  rw [hmode]
  exact Dec.bind_ok.mpr ⟨l, hl, rfl⟩

theorem vdsShort_of_reserved {k : BitVec 4} (hh : readShortHeader w = .ok (h, w')) (hmode : h.encryptionMode = .reserved k) :
    vdsShort p m v w = .error .unsupportedEncryptionMode := by
  refine Dec.bind_error.mpr (.inr ⟨_, hh, ?_⟩)
  dsimp only
  rw [hmode]

/-- The key is looked for before anything is decrypted (R292). -/
theorem vdsShort_of_key_error {c : Cause} (hh : readShortHeader w = .ok (h, w')) (hmode : h.encryptionMode = .aesCbcIv)
    (hkey : vdsKey m v = .error c) : vdsShort p m v w = .error c := by
  refine Dec.bind_error.mpr (.inr ⟨_, hh, ?_⟩)
  dsimp only
  rw [hmode]
  exact Dec.bind_error.mpr (.inl hkey)

/-- With the key, the branch is the decryption and the records of its plaintext (R294, R295). -/
theorem vdsShort_of_key {a : SecondaryAddress} {key : Bytes} (hh : readShortHeader w = .ok (h, w'))
    (hmode : h.encryptionMode = .aesCbcIv) (hkey : vdsKey m v = .ok (a, key)) : vdsShort p m v w = (do
      let plain ← decryptPayload key (ivOf a.raw h.accessNumber) h.numberOfEncryptedBlocks.toNat w'
      let l ← readRecords p plain
      .ok ((v.withHeader h).withRecords l)) := by
  rw [vdsShort, hh]
  show (match h.encryptionMode with | .none => _ | .aesCbcIv => _ | .reserved _ => _) = _
  rw [hmode]
  show (vdsKey m v >>= _) = _
  rw [hkey]
  rfl

end

/-! ## The key and the decryption -/

theorem vdsKey_of_no_address {m : KeyMap} {v : Vds} (h : v.llAddr = none) :
    vdsKey m v = .error .missingLinkLayerAddress := by
  rw [vdsKey, h]

theorem vdsKey_of_no_key {m : KeyMap} {v : Vds} {a : SecondaryAddress} (h : v.llAddr = some a)
    (hkey : v.keys = false ∨ KeyMap.get m a.raw = none) : vdsKey m v = .error .missingKey := by
  rw [vdsKey, h]
  obtain hno | hno := hkey
  · simp [hno]
  · simp [hno]

theorem vdsKey_of_key {m : KeyMap} {v : Vds} {a : SecondaryAddress} {key : Bytes} (h : v.llAddr = some a)
    (hkeys : v.keys = true) (hkey : KeyMap.get m a.raw = some key) : vdsKey m v = .ok (a, key) := by
  rw [vdsKey, h]
  simp only [hkeys, if_true, hkey]

section
variable {key iv w : Bytes} {blocks : Nat}

theorem decryptPayload_of_few (h : w.length < 16 * blocks) :
    decryptPayload key iv blocks w = .error .blockCountExceedsPayload :=
  Dec.bind_error.mpr (.inl (decryptWindow_error.mpr (.inr ⟨by omega, h, rfl⟩)))

/-- No block is decrypted, so the check finds no byte (decision D26). -/
theorem decryptPayload_zero (key iv w : Bytes) : decryptPayload key iv 0 w = .error .truncatedBuffer := by
  have hplain : decryptWindow key iv w 0 w.length 0 = .ok [] := decryptWindow_ok.mpr ⟨by omega, by omega, rfl⟩
  exact Dec.bind_error.mpr (.inr ⟨[], hplain, rfl⟩)

/-- What the row of AES.DECRYPT answers over a window is what the decode decrypts. -/
theorem decryptWindow_of_exec {buf m : Bytes} {p avail n : Nat} {s : State} (hkey : key.length = 16) (hiv : iv.length = 16)
    (h : exec (.aesDecrypt key iv buf p avail n) s = .next (s.respond (.bytes m))) :
    decryptWindow key iv buf p avail n = .ok m := by
  change execAesDecrypt key iv buf p avail n s = _ at h
  cases hplain : decryptWindow key iv buf p avail n with
  | error c =>
    rw [execAesDecrypt_of_error hkey hiv hplain] at h
    exact absurd h.symm (next_respond_ne_raise _ _)
  | ok m' =>
    rw [execAesDecrypt_of_ok hkey hiv hplain] at h
    rw [Value.bytes.inj (next_respond_inj h)]

/-- The check of the two fill bytes decides (R294). -/
theorem decryptPayload_of_plain {m : Bytes} (h : decryptWindow key iv w 0 w.length blocks = .ok m) (hlen : 2 ≤ m.length) :
    decryptPayload key iv blocks w = if m.take 2 = [0x2F#8, 0x2F#8] then .ok m else .error .wrongKey := by
  rw [decryptPayload, h]
  show (memRead 2 m >>= _) = _
  rw [memRead_take hlen]
  rfl

end

/-! ## VDS.DEC over a window in a buffer -/

section
variable {n : Nat} {v : Vds} {s : State} {front w back : Bytes} {ci : Byte}

theorem exec_vdsDec_of_byCi_ok {t : Vds} (hv : s.vdss[n]? = some v) (hraw : v.phase = .raw)
    (hbuf : v.buf = front ++ ci :: w ++ back) (hoff : v.off = front.length) (hlen : v.len = 1 + w.length)
    (h : vdsByCi s.params s.keymap v.fresh ci w = .ok t) :
    exec (.vdsDec n) s = .next ((s.setVds n { t with ci := ci, phase := .decoded }).respond (.vds n)) := by
  refine (exec_vdsDec n s).trans (execVdsDec_of_body_ok hv hraw ?_)
  rw [vdsBody_of_window hbuf hoff hlen, h]
  rfl

theorem exec_vdsDec_of_byCi_error {c : Cause} (hv : s.vdss[n]? = some v) (hraw : v.phase = .raw)
    (hbuf : v.buf = front ++ ci :: w ++ back) (hoff : v.off = front.length) (hlen : v.len = 1 + w.length)
    (h : vdsByCi s.params s.keymap v.fresh ci w = .error c) :
    exec (.vdsDec n) s = .next ((s.setVds n { v with phase := .failed }).raise c) :=
  (exec_vdsDec n s).trans (execVdsDec_of_body_error hv hraw (vdsBody_error_of_byCi hbuf hoff hlen h))

end

/-- Settles O34: the long header read by its parts, or no header, and then the records. -/
theorem vdsLongAndNoHeader : Obligations.VdsLongAndNoHeader := by
  intro n v front w back s hv hraw hoff
  refine ⟨fun raw acc st c0 c1 a hbuf hlen hsa hlength => ?long, fun hbuf hlen l hl => ?noHeader⟩
  case long =>
    have hbuf' : v.buf = front ++ 0x72#8 :: (raw ++ ([acc, st, c0, c1] ++ w)) ++ back := by
      rw [hbuf]
      simp only [List.append_assoc, List.cons_append]
    have hlen' : v.len = 1 + (raw ++ ([acc, st, c0, c1] ++ w)).length := by
      rw [hlen, List.length_append, List.length_append, hlength]
      simp only [List.length_cons, List.length_nil]
      omega
    have hheader := readLongHeader_bytes hlength (saLhAt_of_exec hsa) acc st c0 c1 w
    refine ⟨fun l hmode hl => ?_, fun h0 h5 => exec_vdsDec_of_byCi_error hv hraw hbuf' hoff hlen' ?_⟩
    · rw [encModeOf_of_known hmode] at hheader
      have hdec : vdsByCi s.params s.keymap v.fresh 0x72#8 (raw ++ ([acc, st, c0, c1] ++ w)) = _ :=
        vdsLong_of_records hheader (by dsimp only; split <;> rfl) hl
      exact exec_vdsDec_of_byCi_ok hv hraw hbuf' hoff hlen' hdec
    · rw [encModeOf_of_reserved h0 h5] at hheader
      exact vdsLong_of_reserved hheader rfl
  case noHeader =>
    have hdec : vdsByCi s.params s.keymap v.fresh 0x78#8 w = _ := vdsNone_of_records hl
    exact exec_vdsDec_of_byCi_ok hv hraw hbuf hoff hlen hdec

/-- Settles O35: the short header read, then by its mode, and under mode 5 by the first check that fails. -/
theorem vdsShortHeader : Obligations.VdsShortHeader := by
  intro n v front w back acc st c0 c1 s hv hraw hbuf hoff hlen
  have hbuf' : v.buf = front ++ 0x7A#8 :: ([acc, st, c0, c1] ++ w) ++ back := by
    rw [hbuf]
    simp only [List.append_assoc, List.cons_append, List.nil_append]
  have hlen' : v.len = 1 + ([acc, st, c0, c1] ++ w).length := by
    rw [hlen, List.length_append]
    simp only [List.length_cons, List.length_nil]
    omega
  have hheader := readShortHeader_bytes acc st c0 c1 w
  have decodes {t : Vds} (h : vdsShort s.params s.keymap v.fresh ([acc, st, c0, c1] ++ w) = .ok t) :=
    exec_vdsDec_of_byCi_ok hv hraw hbuf' hoff hlen' h
  have fails {c : Cause} (h : vdsShort s.params s.keymap v.fresh ([acc, st, c0, c1] ++ w) = .error c) :=
    exec_vdsDec_of_byCi_error hv hraw hbuf' hoff hlen' h
  refine ⟨fun hmode l hl => ?plain, fun h0 h5 => fails ?reserved, fun hmode hll => fails ?noAddress,
    fun hmode a hll hkey => fails ?noKey, fun hmode a key hll hkeys hkey hklen halen => ?encrypted⟩
  case plain =>
    rw [hmode] at hheader
    exact decodes (vdsShort_of_plain hheader rfl hl)
  case reserved =>
    rw [encModeOf_of_reserved h0 h5] at hheader
    exact vdsShort_of_reserved hheader rfl
  case noAddress =>
    rw [hmode] at hheader
    exact vdsShort_of_key_error hheader rfl (vdsKey_of_no_address hll)
  case noKey =>
    rw [hmode] at hheader
    exact vdsShort_of_key_error hheader rfl (vdsKey_of_no_key hll hkey)
  case encrypted =>
    rw [hmode] at hheader
    have hbranch := vdsShort_of_key (p := s.params) (v := v.fresh) hheader rfl (vdsKey_of_key hll hkeys hkey)
    dsimp only at hbranch
    rw [toNat_shiftRight_four] at hbranch
    have hiv : (ivOf a.raw acc).length = 16 := by rw [ivOf, List.length_append, List.length_replicate, halen]
    refine ⟨fun hfew => fails ?_, fun hzero => fails ?_, fun m hm hpos => ?_⟩
    · rw [hbranch, decryptPayload_of_few hfew]
      rfl
    · rw [hbranch, hzero, decryptPayload_zero]
      rfl
    · have hplain := decryptWindow_of_exec hklen hiv hm
      have hmlen : 2 ≤ m.length := by
        obtain ⟨-, hcount, rfl⟩ := decryptWindow_ok.mp hplain
        rw [List.drop_zero, List.take_length, cbcDecrypt_length _ _ _ hklen hiv hcount]
        omega
      rw [decryptPayload_of_plain hplain hmlen] at hbranch
      refine ⟨fun hwrong => fails ?_, fun hfill l hl => ?_⟩
      · rw [hbranch, if_neg hwrong]
        rfl
      · rw [if_pos hfill] at hbranch
        exact decodes (hbranch.trans (Dec.bind_ok.mpr ⟨m, rfl, Dec.bind_ok.mpr ⟨l, hl, rfl⟩⟩))

/-! ## The key map in a decode -/

section
variable {p : Params} {m : KeyMap} {v t : Vds} {w : Bytes}

/-- A short header whose mode is not AES needs no key. -/
theorem vdsShort_of_other_keymap (h : vdsShort p m v w = .ok t) (hmode : t.encryptionMode ≠ .aesCbcIv) (m' : KeyMap) :
    vdsShort p m' v w = .ok t := by
  obtain ⟨⟨hd, w'⟩, hh, h⟩ := Dec.bind_ok.mp h
  dsimp only at h
  cases hm : hd.encryptionMode with
  | none =>
    rw [hm] at h
    obtain ⟨l, hl, ht⟩ := Dec.bind_ok.mp h
    cases ht
    exact vdsShort_of_plain hh hm hl
  | aesCbcIv =>
    rw [hm] at h
    obtain ⟨_, -, hkeyed⟩ := Dec.bind_ok.mp h
    obtain ⟨_, -, hdecrypted⟩ := Dec.bind_ok.mp hkeyed
    obtain ⟨_, -, ht⟩ := Dec.bind_ok.mp hdecrypted
    cases ht
    exact absurd hm hmode
  | reserved k =>
    rw [hm] at h
    cases h

theorem ciReceived_eq_short {ci : Byte} (h : ciReceived ci = .shortHeader) : ci = 0x7A#8 := by
  revert ci
  decide

theorem vdsByCi_of_other_keymap {ci : Byte} (h : vdsByCi p m v ci w = .ok t)
    (hplain : ci ≠ 0x7A#8 ∨ t.encryptionMode ≠ .aesCbcIv) (m' : KeyMap) : vdsByCi p m' v ci w = .ok t := by
  unfold vdsByCi at h ⊢
  cases hci : ciReceived ci with
  | shortHeader =>
    rw [hci] at h
    exact vdsShort_of_other_keymap h (hplain.resolve_left (not_not.mpr (ciReceived_eq_short hci))) m'
  | longHeader | noHeader | manufacturerSpecific | unsupported =>
    rw [hci] at h
    exact h

/-- A decode of unencrypted data does not read the key map. -/
theorem vdsBody_of_other_keymap (h : vdsBody p m v = .ok t) (hplain : t.ci ≠ 0x7A#8 ∨ t.encryptionMode ≠ .aesCbcIv)
    (m' : KeyMap) : vdsBody p m' v = .ok t := by
  obtain ⟨w, hw, h⟩ := Dec.bind_ok.mp h
  obtain ⟨⟨ci, w'⟩, hci, h⟩ := Dec.bind_ok.mp h
  obtain ⟨u, hu, ht⟩ := Dec.bind_ok.mp h
  cases ht
  exact Dec.bind_ok.mpr ⟨w, hw, Dec.bind_ok.mpr ⟨_, hci, Dec.bind_ok.mpr ⟨u, vdsByCi_of_other_keymap hu hplain m', rfl⟩⟩⟩

end

/-- Settles O38: the phase is looked at first, and `vdsBody_of_other_keymap`. -/
theorem vdsDecRunsOnceAndNeedsNoKeyForPlainData : Obligations.VdsDecRunsOnceAndNeedsNoKeyForPlainData := by
  have twice {n : Nat} {v : Vds} {s : State} (hv : s.vdss[n]? = some v) (hphase : v.phase ≠ .raw) :
      exec (.vdsDec n) s = .refused .decodeTwice := by
    rw [exec_vdsDec, execVdsDec, objAt_ok.mpr hv, proceed_ok, if_pos hphase]
  refine ⟨fun n v s hv hphase => twice hv hphase, fun n s t v m hexec hresp hv hplain => ?plain⟩
  case plain =>
    obtain ⟨u, hu, -⟩ | ⟨c, -, rfl⟩ := proceed_next.mp hexec
    · have hu' := objAt_ok.mp hu
      have hraw : u.phase = .raw := by
        by_contra hphase
        rw [twice hu' hphase] at hexec
        cases hexec
      cases hbody : vdsBody s.params s.keymap u with
      | error c =>
        rw [exec_vdsDec, execVdsDec_of_body_error hu' hraw hbody] at hexec
        cases hexec
        cases Option.some.inj hresp
      | ok x =>
        rw [exec_vdsDec, execVdsDec_of_body_ok hu' hraw hbody] at hexec
        cases hexec
        have hn : n < s.vdss.length := (List.getElem?_eq_some_iff.mp hu').1
        have hx : some x = some v := (List.getElem?_set_self hn).symm.trans hv
        cases hx
        exact execVdsDec_of_body_ok (s := { s with keymap := m }) hu' hraw (vdsBody_of_other_keymap hbody hplain m)
    · cases Option.some.inj hresp

end Sys2Proof.Machine

/-! What LNK.READ makes of the answer (45_wired_frame.md R350). -/

namespace Sys2Proof.Machine

/-! ## The exchange of LNK.READ -/

/-- `s` after LNK.READ sent its request and toggled the frame count bit, before it receives. -/
def State.requested (a : Byte) (s : State) : State :=
  ((s.transmit (encShortFrame (reqUd2Control (fcbGet s.fcb a)) a)).setLink .awaitingResponse).setFcb (fcbToggle s.fcb a)

/-- LASTTX is a short frame then, so no frame that is received is an echo. -/
theorem State.requested_lastTx_ne {a : Byte} {s : State} {f : Bytes} (h : f.head? ≠ some 0x10#8) :
    (s.requested a).lastTx ≠ some f :=
  fun hecho => h (by rw [← Option.some.inj hecho]; rfl)

section
variable {s t : State} {a : Byte} {n : Nat}

theorem readExchange_of_rxFrame {r : Dec WiredFrame} (hrx : rxFrame (s.requested a) = (r, t)) :
    readExchange a s = (r >>= fun fr => readAnswer fr t, t.setLink .idle) := by
  rw [readExchange_eq]
  have hexchange : exchange (encShortFrame (reqUd2Control (fcbGet s.fcb a)) a) (fun u => u.setFcb (fcbToggle u.fcb a)) s =
      rxFrame (s.requested a) := rfl
  rw [hexchange, hrx]

theorem exec_lnkRead_of_answer {fr : WiredFrame} {v : Vds} (hlink : needLink s = .ok ())
    (hrx : rxFrame (s.requested a) = (.ok fr, t)) (h : readAnswer fr t = .ok v) :
    exec (.lnkRead a n) s = .next (((t.setLink .idle).addVds v).respond (.vds t.vdss.length)) :=
  execLnkRead_of_ok hlink ((readExchange_of_rxFrame hrx).trans (Prod.ext h rfl)) n

theorem exec_lnkRead_of_bad_answer {fr : WiredFrame} {c : Cause} (hlink : needLink s = .ok ())
    (hrx : rxFrame (s.requested a) = (.ok fr, t)) (h : readAnswer fr t = .error c) :
    exec (.lnkRead a n) s = .next ((t.setLink .idle).raise c) :=
  execLnkRead_of_error hlink ((readExchange_of_rxFrame hrx).trans (Prod.ext h rfl)) n

theorem exec_lnkRead_of_no_answer {c : Cause} (hlink : needLink s = .ok ())
    (hrx : rxFrame (s.requested a) = (.error c, t)) : exec (.lnkRead a n) s = .next ((t.setLink .idle).raise c) :=
  execLnkRead_of_error hlink (readExchange_of_rxFrame hrx) n

end

/-! ## The answer -/

theorem isRspUd_eq (c : Byte) : isRspUd c = true ↔ c.toNat % 16 = 8 ∧ c.toNat < 64 := by
  revert c
  decide

section
variable {s : State} {c d ci : Byte} {data : Bytes}

/-- The window of a response is the frame from its CI byte on, checksum and stop byte included (decision D23). -/
theorem frameVds_encoded (hmax : data.length ≤ 252) :
    frameVds (LongFields.encoded c d ci data).frame s = (do
      let t ← vdsByCi s.params s.keymap (Vds.new (encLongFrame c d ci data) 6 (3 + data.length) none true) ci
        (data ++ [checksum ([c, d, ci] ++ data), 0x16#8])
      .ok { t with ci := ci, phase := .decoded }) := by
  have hl : (LongFields.encoded c d ci data).frame.l.toNat = 3 + data.length := LongFields.encoded_sized (c := c) (a := d) (ci := ci) hmax
  let l : Byte := BitVec.ofNat 8 (3 + data.length)
  have hbuf : encLongFrame c d ci data =
      [0x68#8, l, l, 0x68#8, c, d] ++ ci :: (data ++ [checksum ([c, d, ci] ++ data), 0x16#8]) ++ [] := by
    rw [List.append_nil]
    rfl
  have hlen : 3 + data.length = 1 + (data ++ [checksum ([c, d, ci] ++ data), 0x16#8]).length := by
    rw [List.length_append]
    simp only [List.length_cons, List.length_nil]
    omega
  rw [frameVds, hl]
  exact vdsBody_of_window (v := Vds.new (encLongFrame c d ci data) 6 (3 + data.length) none true) hbuf rfl hlen _ _

theorem readAnswer_of_other_type (h : ¬(c.toNat % 16 = 8 ∧ c.toNat < 64)) :
    readAnswer (.long (LongFields.encoded c d ci data).frame) s = .error .wrongMessageType :=
  if_neg fun htype => h ((isRspUd_eq c).mp htype)

theorem readAnswer_of_rspUd (h8 : c.toNat % 16 = 8) (h64 : c.toNat < 64) :
    readAnswer (.long (LongFields.encoded c d ci data).frame) s = frameVds (LongFields.encoded c d ci data).frame s :=
  if_pos ((isRspUd_eq c).mpr ⟨h8, h64⟩)

end

/-- Settles O49: by what is received and, for a response, by its CI byte. -/
theorem lnkReadDecodesTheResponse : Obligations.LnkReadDecodesTheResponse := by
  intro a t more s hk hl
  have hlink : needLink s = .ok () := needLink_ok.mpr ⟨hk, hl⟩
  have long {c d ci : Byte} {data : Bytes} (hmax : data.length ≤ 252)
      (hin : s.tpIn = delivered (encLongFrame c d ci data) ++ more) : rxFrame (s.requested a) =
        (.ok (.long (LongFields.encoded c d ci data).frame), { s.requested a with tpIn := more }) :=
    rxFrame_of_encLongFrame hmax hin (State.requested_lastTx_ne (by rw [encLongFrame_head]; decide))
  have silence (hin : s.tpIn = .timeout :: more) :
      rxFrame (s.requested a) = (.error .noResponse, { s.requested a with tpIn := more }) := by
    have hread : (s.requested a).tpReadByte = (none, { s.requested a with tpIn := more }) := tpReadByte_timeout hin
    exact rxFrame_of_error (by rw [rxOnce, hread])
  refine ⟨fun c d data l hmax h8 h64 hin hl => ?decoded, fun hin => ⟨_, exec_lnkRead_of_bad_answer hlink
      (rxFrame_of_singleCharacter hin (State.requested_lastTx_ne (by decide))) rfl, rfl, rfl, rfl⟩,
    fun c d ci data hmax hin htype => ⟨_, exec_lnkRead_of_bad_answer hlink (long hmax hin) (readAnswer_of_other_type htype),
      rfl, rfl, rfl⟩,
    fun c d acc st c0 c1 data hmax hin h8 h64 hmode => ?encrypted,
    fun hin => ⟨_, exec_lnkRead_of_no_answer hlink (silence hin), rfl, rfl, rfl⟩⟩
  case decoded =>
    have hanswer : readAnswer (.long (LongFields.encoded c d 0x78#8 data).frame) { s.requested a with tpIn := more } =
        .ok { (Vds.new (encLongFrame c d 0x78#8 data) 6 (3 + data.length) none true).withRecords l with
          ci := 0x78#8, phase := .decoded } := by
      rw [readAnswer_of_rspUd h8 h64, frameVds_encoded hmax, vdsByCi_none]
      exact Dec.bind_ok.mpr ⟨_, vdsNone_of_records hl, rfl⟩
    exact ⟨_, _, exec_lnkRead_of_answer hlink (long hmax hin) hanswer, rfl, rfl, rfl, rfl, rfl, rfl, rfl, rfl, rfl, rfl, rfl, rfl,
      rfl⟩
  case encrypted =>
    have hmax' : ([acc, st, c0, c1] ++ data).length ≤ 252 := by
      rw [List.length_append]
      simp only [List.length_cons, List.length_nil]
      omega
    have hheader := readShortHeader_bytes acc st c0 c1
      (data ++ [checksum ([c, d, 0x7A#8] ++ ([acc, st, c0, c1] ++ data)), 0x16#8])
    rw [hmode] at hheader
    have hanswer : readAnswer (.long (LongFields.encoded c d 0x7A#8 ([acc, st, c0, c1] ++ data)).frame)
        { s.requested a with tpIn := more } = .error .missingLinkLayerAddress := by
      rw [readAnswer_of_rspUd h8 h64, frameVds_encoded hmax', vdsByCi_short, List.append_assoc]
      exact Dec.bind_error.mpr (.inl (vdsShort_of_key_error hheader rfl (vdsKey_of_no_address rfl)))
    exact ⟨_, exec_lnkRead_of_bad_answer hlink (long hmax' hin) hanswer, rfl, rfl, rfl⟩

end Sys2Proof.Machine

/-! Wireless messages: WL.NEW, WL.DEC and WL.DEEP (46_wireless_frame.md R380 to R384). -/

namespace Sys2Proof.Machine

theorem exec_wlNew (buf rssi : Bytes) (s : State) : exec (.wlNew buf rssi) s = execWlNew buf rssi s := rfl
theorem exec_wlDec (n : Nat) (s : State) : exec (.wlDec n) s = execWlDec n s := rfl
theorem exec_wlDeep (n : Nat) (s : State) : exec (.wlDeep n) s = execWlDeep n s := rfl

/-! ## The header (R382) -/

/-- An address that SA.LL makes of 8 bytes is read from the front of any others. -/
theorem readSaLl_of_saLlAt {raw : Bytes} {a : SecondaryAddress} (hraw : raw.length = 8) (h : saLlAt raw 0 = .ok a)
    (w : Bytes) : readSaLl (raw ++ w) = .ok (a, w) := by
  have hmake := saLlAt_between [] [] hraw
  rw [List.nil_append, List.append_nil, List.length_nil, h] at hmake
  exact Dec.bind_ok.mpr ⟨_, memRead_append_of_length hraw w, Dec.bind_ok.mpr ⟨a, hmake.symm, rfl⟩⟩

/-- SA.LL of 8 bytes whose device id is a packed decimal. -/
theorem saLlAt_of_packed {raw : Bytes} (hraw : raw.length = 8) (h : PackedDecimal ((raw.drop 2).take 4)) :
    ∃ a, saLlAt raw 0 = .ok a ∧ a.raw = raw := by
  obtain ⟨a, ha, hbytes⟩ := (readSaLl_append raw [] hraw).1 h
  rw [List.append_nil] at ha
  exact ⟨a, Dec.bind_ok.mpr ⟨_, ha, rfl⟩, hbytes⟩

section
variable {l c : Byte} {raw w : Bytes}

theorem wlHeader_of_exceeding (h : w.length < l.toNat) : wlHeader (l :: w) = .error .wirelessLengthExceedsBuffer :=
  if_pos h

theorem wlHeader_of_small (hbuf : l.toNat ≤ w.length) (h : l.toNat < 10) : wlHeader (l :: w) = .error .truncatedBuffer :=
  (if_neg (Nat.not_lt.mpr hbuf)).trans (if_pos h)

/-- With a length byte in its bounds, the header is the address. -/
theorem wlHeader_of_length (hraw : raw.length = 8) (hmin : 10 ≤ l.toNat) (hmax : l.toNat ≤ 9 + w.length) :
    wlHeader (l :: c :: raw ++ w) = (do
      let (a, _) ← readSaLl (raw ++ w)
      .ok (l, c, a)) := by
  have hbuf : ¬(c :: (raw ++ w)).length < l.toNat := by
    rw [List.length_cons, List.length_append, hraw]
    omega
  exact (if_neg hbuf).trans (if_neg (Nat.not_lt.mpr hmin))

theorem wlHeader_of_address {a : SecondaryAddress} (hraw : raw.length = 8) (hmin : 10 ≤ l.toNat)
    (hmax : l.toNat ≤ 9 + w.length) (h : saLlAt raw 0 = .ok a) : wlHeader (l :: c :: raw ++ w) = .ok (l, c, a) := by
  rw [wlHeader_of_length hraw hmin hmax, readSaLl_of_saLlAt hraw h]
  rfl

theorem wlHeader_of_not_packed (hraw : raw.length = 8) (hmin : 10 ≤ l.toNat) (hmax : l.toNat ≤ 9 + w.length)
    (h : ¬PackedDecimal ((raw.drop 2).take 4)) : wlHeader (l :: c :: raw ++ w) = .error .bcdInvalidNibble := by
  rw [wlHeader_of_length hraw hmin hmax, (readSaLl_append raw w hraw).2 h]
  rfl

end

/-! ## WL.DEC -/

theorem WlMessage.isDone_of_done {m : WlMessage} (h : m.phase = .deep ∨ m.phase = .failed) : m.isDone = true := by
  obtain h | h := h <;> rw [WlMessage.isDone, h] <;> rfl

theorem WlMessage.isDone_of_open {m : WlMessage} (h : m.phase = .raw ∨ m.phase = .header) : m.isDone = false := by
  obtain h | h := h <;> rw [WlMessage.isDone, h] <;> rfl

section
variable {n : Nat} {m : WlMessage} {s : State}

theorem exec_wlDec_of_done (hm : s.msgs[n]? = some m) (h : m.isDone = true) : exec (.wlDec n) s = .refused .decodeTwice := by
  rw [exec_wlDec, execWlDec, objAt_ok.mpr hm, proceed_ok, if_pos h]

theorem exec_wlDeep_of_done (hm : s.msgs[n]? = some m) (h : m.isDone = true) :
    exec (.wlDeep n) s = .refused .decodeTwice := by
  rw [exec_wlDeep, execWlDeep, objAt_ok.mpr hm, proceed_ok, if_pos h]

theorem wlDecode_of_ok {h : Byte × Byte × SecondaryAddress} (hh : wlHeader m.buf = .ok h) :
    wlDecode m = (.ok (), m.withHeader h) := by rw [wlDecode, hh]

theorem wlDecode_of_error {c : Cause} (hh : wlHeader m.buf = .error c) : wlDecode m = (.error c, m.fail) := by
  rw [wlDecode, hh]

/-- A header that is read replaces the message's (R382). -/
theorem exec_wlDec_of_ok {h : Byte × Byte × SecondaryAddress} (hm : s.msgs[n]? = some m) (hopen : m.isDone = false)
    (hh : wlHeader m.buf = .ok h) :
    exec (.wlDec n) s = .next ((s.setMsg n (m.withHeader h)).respond (.message n)) := by
  rw [exec_wlDec, execWlDec, objAt_ok.mpr hm, proceed_ok, hopen, if_neg Bool.false_ne_true, wlDecode_of_ok hh]

/-- A failure leaves the message Failed, and nothing else of it written. -/
theorem exec_wlDec_of_error {c : Cause} (hm : s.msgs[n]? = some m) (hopen : m.isDone = false)
    (hh : wlHeader m.buf = .error c) : exec (.wlDec n) s = .next ((s.setMsg n m.fail).raise c) := by
  rw [exec_wlDec, execWlDec, objAt_ok.mpr hm, proceed_ok, hopen, if_neg Bool.false_ne_true, wlDecode_of_error hh]

end

/-- Settles O51: `deliver`, and `wlHeader` by the length byte and the address. -/
theorem wlDecReadsTheHeader : Obligations.WlDecReadsTheHeader := by
  refine ⟨fun buf rssi s hk => ⟨WlMessage.new buf rssi, rfl, rfl, rfl, ?new⟩, fun n m s hm =>
    ⟨fun hdone => ?done, fun hphase => ⟨fun l c raw w hbuf hraw hmin hmax => ⟨fun hpacked => ?header, fun hbad => ?badId⟩,
      fun hbuf => ?empty, fun l w hbuf => ⟨fun hover => ?exceeding, fun hin hsmall => ?small⟩⟩⟩⟩
  case new =>
    rw [exec_wlNew, execWlNew, if_pos hk, deliver, State.emit_eq]
    rfl
  case done =>
    have hdone' := WlMessage.isDone_of_done hdone
    exact ⟨exec_wlDec_of_done hm hdone', exec_wlDeep_of_done hm hdone'⟩
  all_goals have hopen := WlMessage.isDone_of_open hphase
  case header =>
    obtain ⟨a, ha, hbytes⟩ := saLlAt_of_packed hraw hpacked
    have hheader : wlHeader m.buf = .ok (l, c, a) := by rw [hbuf, wlHeader_of_address hraw hmin hmax ha]
    refine ⟨a, ?_, hbytes, exec_wlDec_of_ok hm hopen hheader⟩
    rw [exec_saLl]
    exact concludeAddr_ofDec_ok ha s
  case badId => exact exec_wlDec_of_error hm hopen (by rw [hbuf, wlHeader_of_not_packed hraw hmin hmax hbad])
  case empty => exact exec_wlDec_of_error hm hopen (by rw [hbuf]; rfl)
  case exceeding => exact exec_wlDec_of_error hm hopen (by rw [hbuf, wlHeader_of_exceeding hover])
  case small => exact exec_wlDec_of_error hm hopen (by rw [hbuf, wlHeader_of_small hin hsmall])

/-! ## WL.DEEP -/

section
variable {n : Nat} {m m' : WlMessage} {s : State}

theorem exec_wlDeep_of_header (hm : s.msgs[n]? = some m) (hphase : m.phase = .header) :
    exec (.wlDeep n) s = deepDecode n m s := by
  rw [exec_wlDeep, execWlDeep, objAt_ok.mpr hm, proceed_ok, WlMessage.isDone_of_open (.inr hphase),
    if_neg Bool.false_ne_true, if_pos hphase]

/-- Of a message in phase Raw, WL.DEEP decodes the header first. -/
theorem exec_wlDeep_of_raw_ok {h : Byte × Byte × SecondaryAddress} (hm : s.msgs[n]? = some m) (hphase : m.phase = .raw)
    (hh : wlHeader m.buf = .ok h) : exec (.wlDeep n) s = deepDecode n (m.withHeader h) s := by
  have hne : ¬m.phase = .header := by rw [hphase]; decide
  rw [exec_wlDeep, execWlDeep, objAt_ok.mpr hm, proceed_ok, WlMessage.isDone_of_open (.inl hphase),
    if_neg Bool.false_ne_true, if_neg hne, wlDecode_of_ok hh]

theorem exec_wlDeep_of_raw_error {c : Cause} (hm : s.msgs[n]? = some m) (hphase : m.phase = .raw)
    (hh : wlHeader m.buf = .error c) : exec (.wlDeep n) s = .next ((s.setMsg n m.fail).raise c) := by
  have hne : ¬m.phase = .header := by rw [hphase]; decide
  rw [exec_wlDeep, execWlDeep, objAt_ok.mpr hm, proceed_ok, WlMessage.isDone_of_open (.inl hphase),
    if_neg Bool.false_ne_true, if_neg hne, wlDecode_of_error hh]

theorem deepDecode_of_ok {v : Vds} (h : vdsBody s.params s.keymap m.newVds = .ok v) : deepDecode n m s =
    .next (((s.addVds v).setMsg n { m with vds := some s.vdss.length, phase := .deep }).respond (.message n)) := by
  have h' : vdsBody s.params s.keymap { m with vds := some s.vdss.length }.newVds = .ok v := h
  rw [deepDecode, h']

theorem deepDecode_of_error {c : Cause} (h : vdsBody s.params s.keymap m.newVds = .error c) : deepDecode n m s =
    .next (((s.addVds m.newVds.fail).setMsg n { m with vds := some s.vdss.length }).raise c) := by
  have h' : vdsBody s.params s.keymap { m with vds := some s.vdss.length }.newVds = .error c := h
  rw [deepDecode, h']
  rfl

theorem setMsg_setMsg (n : Nat) (m m' : WlMessage) (s : State) : (s.setMsg n m).setMsg n m' = s.setMsg n m' := by
  rw [State.setMsg, State.setMsg, State.setMsg, List.set_set]

/-- The message is written at the end, so what was written to it and answered before does not matter. -/
theorem deepDecode_of_setMsg (v : Value) : deepDecode n m' ((s.setMsg n m).respond v) = deepDecode n m' s := by
  cases h : vdsBody s.params s.keymap m'.newVds with
  | ok x =>
    rw [deepDecode_of_ok h, deepDecode_of_ok (s := (s.setMsg n m).respond v) h, ← setMsg_setMsg n m _ (s.addVds x)]
    rfl
  | error c =>
    rw [deepDecode_of_error h, deepDecode_of_error (s := (s.setMsg n m).respond v) h,
      ← setMsg_setMsg n m _ (s.addVds m'.newVds.fail)]
    rfl

/-- A VDS object written after it was added last. -/
theorem setVds_addVds (v v' : Vds) (s : State) : (s.addVds v).setVds s.vdss.length v' = s.addVds v' := by
  simp [State.addVds, State.setVds]

end

/-- Settles O52: `deepDecode` is the body of VDS.DEC on the object that VDS.NEW makes. -/
theorem wlDeepDecodesTheVds : Obligations.WlDeepDecodesTheVds := by
  refine fun n m s hm => ⟨fun a hphase ha => ?header, fun hphase => ?raw⟩
  case header =>
    have haddr : optSaAt s (some (.ofMsg n)) = .ok m.secondaryAddress :=
      optSaAt_ok.mpr ⟨a, saAt_ok.mpr ⟨m, hm, by rw [ha]; rfl⟩, ha⟩
    let u := (s.addVds m.newVds).respond (.vds s.vdss.length)
    have hu : u.vdss[s.vdss.length]? = some m.newVds := by simp [u, State.addVds, State.respond]
    have hnew : exec (.vdsNew m.buf 10 (m.length.toNat - 9) (some (.ofMsg n)) true) s = .next u := by
      rw [exec_vdsNew, execVdsNew_of_optSaAt_ok haddr]
      rfl
    rw [exec_wlDeep_of_header hm hphase]
    cases hbody : vdsBody s.params s.keymap m.newVds with
    | ok v =>
      refine ⟨u, _, _, hnew, (exec_vdsDec _ u).trans (execVdsDec_of_body_ok hu rfl hbody), deepDecode_of_ok hbody,
        fun r _ => ?_, fun c hc => nomatch Option.some.inj hc⟩
      rw [← setVds_addVds m.newVds v s]
      rfl
    | error c =>
      refine ⟨u, _, _, hnew, (exec_vdsDec _ u).trans (execVdsDec_of_body_error hu rfl hbody), deepDecode_of_error hbody,
        fun r hr => (by cases Option.some.inj hr), fun c' _ => ?_⟩
      rw [← setVds_addVds m.newVds m.newVds.fail s]
      rfl
  case raw =>
    have hopen := WlMessage.isDone_of_open (.inl hphase)
    cases hh : wlHeader m.buf with
    | ok h =>
      refine ⟨_, exec_wlDec_of_ok hm hopen hh, fun r _ => ?_, fun c hc => nomatch Option.some.inj hc⟩
      have hn : n < s.msgs.length := (List.getElem?_eq_some_iff.mp hm).1
      have hm' : ((s.setMsg n (m.withHeader h)).respond (.message n)).msgs[n]? = some (m.withHeader h) :=
        List.getElem?_set_self hn
      rw [exec_wlDeep_of_raw_ok hm hphase hh, exec_wlDeep_of_header hm' rfl, deepDecode_of_setMsg]
    | error c =>
      exact ⟨_, exec_wlDec_of_error hm hopen hh, fun r hr => (nomatch Option.some.inj hr),
        fun c' _ => exec_wlDeep_of_raw_error hm hphase hh⟩

end Sys2Proof.Machine

/-! The format rows that read a structure from the front of a buffer (30_encoding.md R100 to R107, R111). -/

namespace Sys2Proof.Machine

theorem exec_fSaLh (buf : Bytes) (s : State) : exec (.fSaLh buf) s = execFSaLh buf s := rfl
theorem exec_fSaLl (buf : Bytes) (s : State) : exec (.fSaLl buf) s = execFSaLl buf s := rfl
theorem exec_fSh (buf : Bytes) (s : State) : exec (.fSh buf) s = execFSh buf s := rfl
theorem exec_fLh (buf : Bytes) (s : State) : exec (.fLh buf) s = execFLh buf s := rfl
theorem exec_fWl (buf : Bytes) (s : State) : exec (.fWl buf) s = execFWl buf s := rfl
theorem exec_fVib (buf : Bytes) (s : State) : exec (.fVib buf) s = execFVib buf s := rfl

/-! ## Each row, by its reader -/

section
variable {buf w : Bytes} {s : State}

theorem execFSaLh_of_ok {a : SecondaryAddress} (h : readSaLh buf = .ok (a, w)) :
    execFSaLh buf s = .next (s.respond (.fields (.address a))) := concludeFields_ok (Dec.bind_ok.mpr ⟨_, h, rfl⟩) s

theorem execFSaLh_of_error {c : Cause} (h : readSaLh buf = .error c) : execFSaLh buf s = .next (s.raise c) :=
  concludeFields_error (Dec.bind_error.mpr (.inl h)) s

theorem execFSaLl_of_ok {a : SecondaryAddress} (h : readSaLl buf = .ok (a, w)) :
    execFSaLl buf s = .next (s.respond (.fields (.address a))) := concludeFields_ok (Dec.bind_ok.mpr ⟨_, h, rfl⟩) s

theorem execFSaLl_of_error {c : Cause} (h : readSaLl buf = .error c) : execFSaLl buf s = .next (s.raise c) :=
  concludeFields_error (Dec.bind_error.mpr (.inl h)) s

theorem execFSh_of_ok {h : ShortHeader} (hh : readShortHeader buf = .ok (h, w)) :
    execFSh buf s = .next (s.respond (.fields (.shortHeader h))) := concludeFields_ok (Dec.bind_ok.mpr ⟨_, hh, rfl⟩) s

theorem execFLh_of_ok {a : SecondaryAddress} {h : ShortHeader} (hh : readLongHeader buf = .ok (a, h, w)) :
    execFLh buf s = .next (s.respond (.fields (.longHeader a h))) := concludeFields_ok (Dec.bind_ok.mpr ⟨_, hh, rfl⟩) s

/-- A long header begins with its address. -/
theorem execFLh_of_address_error {c : Cause} (h : readSaLh buf = .error c) : execFLh buf s = .next (s.raise c) :=
  concludeFields_error (Dec.bind_error.mpr (.inl (Dec.bind_error.mpr (.inl h)))) s

theorem execFWl_of_ok {l c : Byte} {a : SecondaryAddress} (h : wlHeader buf = .ok (l, c, a)) :
    execFWl buf s = .next (s.respond (.fields (.wireless l c a 10 (l.toNat - 9)))) :=
  concludeFields_ok (Dec.bind_ok.mpr ⟨_, h, rfl⟩) s

/-- The row looks up the block it reads. -/
theorem readVib_of_chained (p : Params) {vib : Bytes} (hvib : Chained vib) (w : Bytes) :
    readVib p (vib ++ w) = (do
      let e ← vifLookup p vib
      .ok (.vib vib e)) := by
  rw [readVib, chain_ok.mpr ⟨hvib, rfl⟩]
  rfl

theorem execFVib_of_ok {vib : Bytes} {e : VifEntry} (hvib : Chained vib) (h : vifLookup s.params vib = .ok e) :
    execFVib (vib ++ w) s = .next (s.respond (.fields (.vib vib e))) :=
  concludeFields_ok (by rw [readVib_of_chained s.params hvib w, h]; rfl) s

theorem execFVib_of_error {vib : Bytes} {c : Cause} (hvib : Chained vib) (h : vifLookup s.params vib = .error c) :
    execFVib (vib ++ w) s = .next (s.raise c) :=
  concludeFields_error (by rw [readVib_of_chained s.params hvib w, h]; rfl) s

theorem readSaLh_of_short {short : Bytes} (h : short.length < 8) : readSaLh short = .error .truncatedBuffer :=
  memRead_bind_cut h _

theorem readSaLl_of_short {short : Bytes} (h : short.length < 8) : readSaLl short = .error .truncatedBuffer :=
  memRead_bind_cut h _

end

/-- SA.LH of 8 bytes whose device id is a packed decimal. -/
theorem saLhAt_of_packed {raw : Bytes} (hraw : raw.length = 8) (h : PackedDecimal (raw.take 4)) :
    ∃ a, saLhAt raw 0 = .ok a ∧ a.raw = raw := by
  obtain ⟨a, ha, hbytes⟩ := (readSaLh_append raw [] hraw).1 h
  rw [List.append_nil] at ha
  exact ⟨a, Dec.bind_ok.mpr ⟨_, ha, rfl⟩, hbytes⟩

/-- The mode of a nibble names AES or no encryption exactly for 5 and 0. -/
theorem encModeOf_eq_none {id : Nat} : encModeOf id = .none ↔ id = 0 := by
  unfold encModeOf
  split
  · simp [*]
  · split <;> simp [*]

theorem encModeOf_eq_aes {id : Nat} : encModeOf id = .aesCbcIv ↔ id = 5 := by
  unfold encModeOf
  split
  · simp [*]
  · split <;> simp [*]

/-- The sum over the extension bytes, byte by byte (R193). -/
theorem difeSum_eq_sum (k w step : Nat) (es : Bytes) : difeSum k w step es =
    ((List.range es.length).map fun j => bitsOf (byteAt es j).toNat k w * 2 ^ (step * j)).sum := by
  induction es with
  | nil => rfl
  | cons e es ih =>
    have hshift : (fun j => bitsOf (byteAt (e :: es) (j + 1)).toNat k w * 2 ^ (step * (j + 1))) =
        fun j => 2 ^ step * (bitsOf (byteAt es j).toNat k w * 2 ^ (step * j)) := by
      funext j
      rw [Nat.mul_succ, Nat.pow_add, Nat.mul_comm (2 ^ (step * j)), Nat.mul_left_comm]
      rfl
    rw [difeSum, ih, List.length_cons, List.range_succ_eq_map, List.map_cons, List.sum_cons, List.map_map,
      Nat.mul_zero, Nat.pow_zero, Nat.mul_one, ← List.sum_map_mul_left]
    exact congrArg (fun f => bitsOf e.toNat k w + (List.map f (List.range es.length)).sum) hshift.symm

/-- Bit 0 of a storage number is that of the DIF, so the extensions count from bit 1. -/
theorem two_mul_difeSum (es : Bytes) : 2 * difeSum 0 4 4 es =
    ((List.range es.length).map fun j => (byteAt es j).toNat % 16 * 2 ^ (1 + 4 * j)).sum := by
  rw [difeSum_eq_sum, ← List.sum_map_mul_left]
  refine congrArg (fun f => (List.map f (List.range es.length)).sum) (funext fun j => ?_)
  rw [bitsOf_low, Nat.pow_add, Nat.mul_left_comm]
  rfl

/-- Settles O60: each row, by what its reader makes of the front of the buffer. -/
theorem structuresAreRead : Obligations.StructuresAreRead := by
  refine fun w s => ⟨fun raw hraw => ⟨fun hpacked => ?long, fun hpacked => ?wireless, fun hbad => ?badLong, fun hbad => ?badLl⟩,
    fun short hshort => ?short, fun acc st c0 c1 => ?shortHeader, fun d es hchained => ?dib,
    fun vib hvib => ⟨fun e he => ?vib, fun habsent => ?unknownVib⟩, fun b hpacked => ?bcd⟩
  case long =>
    obtain ⟨a, ha, hbytes⟩ := saLhAt_of_packed hraw hpacked
    refine ⟨a, (exec_saLh raw 0 s).trans (concludeAddr_ofDec_ok ha s), hbytes,
      (exec_fSaLh _ s).trans (execFSaLh_of_ok (readSaLh_of_saLhAt hraw ha w)), fun acc st c0 c1 => ⟨_,
      (exec_fSh _ s).trans (execFSh_of_ok (readShortHeader_bytes acc st c0 c1 [])), ?_⟩⟩
    rw [exec_fLh, List.append_assoc]
    exact execFLh_of_ok (readLongHeader_bytes hraw ha acc st c0 c1 w)
  case wireless =>
    obtain ⟨a, ha, hbytes⟩ := saLlAt_of_packed hraw hpacked
    exact ⟨a, (exec_saLl raw 0 s).trans (concludeAddr_ofDec_ok ha s), hbytes,
      (exec_fSaLl _ s).trans (execFSaLl_of_ok (readSaLl_of_saLlAt hraw ha w)), fun l c hmin hmax =>
      (exec_fWl _ s).trans (execFWl_of_ok (wlHeader_of_address hraw hmin hmax ha))⟩
  case badLong =>
    have hread := (readSaLh_append raw w hraw).2 hbad
    exact ⟨execFSaLh_of_error hread, execFLh_of_address_error hread⟩
  case badLl => exact execFSaLl_of_error ((readSaLl_append raw w hraw).2 hbad)
  case short =>
    have hread := readSaLh_of_short hshort
    exact ⟨execFSaLh_of_error hread, execFSaLl_of_error (readSaLl_of_short hshort), execFLh_of_address_error hread⟩
  case shortHeader =>
    exact ⟨_, (exec_fSh _ s).trans (execFSh_of_ok (readShortHeader_bytes acc st c0 c1 w)), rfl, rfl,
      toNat_shiftRight_four c0, encModeOf_eq_none, encModeOf_eq_aes⟩
  case dib =>
    refine ⟨dibFields (d :: es), exec_fDib_of_chained hchained w s, rfl, dibFields_code _, rfl, ?_, ?_, ?_⟩
    · exact congrArg (d.toNat / 64 % 2 + ·) (two_mul_difeSum es)
    · exact difeSum_eq_sum 4 2 2 es
    · refine (difeSum_eq_sum 6 1 1 es).trans (congrArg (fun f => (List.map f (List.range es.length)).sum) (funext fun j => ?_))
      rw [Nat.one_mul]
      rfl
  case vib => exact execFVib_of_ok hvib (vifLookup_of_find he)
  case unknownVib => exact execFVib_of_error hvib (vifLookup_of_absent habsent)
  case bcd =>
    obtain ⟨x, hx⟩ := (bcdDecode_packed hpacked.1).1 hpacked
    exact ⟨x, (exec_bcdDec b s).trans (execBcdDec_of_decode hpacked.1 hx s), exec_fBcd_of_decode hpacked.1 hx s⟩

end Sys2Proof.Machine
